-- ==== Sys2Proof/Word.lean ====
section
/-! DEFINITION. The widths the PDU block moves: bytes on the wire, 32-bit command and host words. -/

namespace Sys2Proof

/-- One byte of a wire format or a byte space (spec/00_scope.md section 4). -/
abbrev Byte := BitVec 8

/-- One 32-bit word: a command word (R92) or the value of a host access (R204, R205). -/
abbrev Word := BitVec 32

end Sys2Proof
end

