-- ==== Sys2Proof/Syntax.lean ====
section
/-! DEFINITION. The twenty commands of R95, one constructor per row of spec/opcode_table.json, each with the operand
fields of R93 at their widths. -/

namespace Sys2Proof

/-- A command of the PDU block. -/
inductive Instr where
  | nop
  | srst
  | dclr
  | hpack
  | hunpk
  | ser
  | seri (cap : BitVec 16)
  | deser
  | valid
  | enq
  | drain
  | segm (port : BitVec 3) (cls : BitVec 1) (sd : BitVec 1) (scid : BitVec 10)
  | rel (id : BitVec 8)
  | hoff (id : BitVec 8)
  | fpend
  | ldf (src : BitVec 2) (idx : BitVec 8)
  | nmore
  | accum
  | tobits
  | accclr
  deriving DecidableEq, Repr

end Sys2Proof
end

