-- ==== Sys2Proof/WellFormed.lean ====
section
/-! DEFINITION. Which terms of `Instr` are legal commands. The operand fields are bit vectors of the table's widths, so
the one constraint left is the table's on LDF: `src = 3` is an illegal command (R93, R96). -/

namespace Sys2Proof

/-- The command is one some legal command word stands for (R96). -/
def Instr.wellFormed : Instr → Bool
  | .ldf src _ => src != 3
  | .nop | .srst | .dclr | .hpack | .hunpk | .ser | .seri _ | .deser | .valid | .enq | .drain | .segm _ _ _ _
  | .rel _ | .hoff _ | .fpend | .nmore | .accum | .tobits | .accclr => true

end Sys2Proof
end

