-- ==== Sys2Proof/Decode.lean ====
section
/-! DEFINITION. Command words to commands and back (R92, R93, R95, R96). A command word is one 32-bit value written to
CMD; it has no byte order of its own (log 16). -/

namespace Sys2Proof

/-- Why a word is illegal (R96). -/
inductive DecodeError where
  /-- `op` is not one of the twenty values of R95. -/
  | unassignedOpcode (op : BitVec 8)
  /-- A reserved bit of the named command's word is 1. -/
  | reservedBit (mnemonic : String)
  /-- LDF with `src = 3`. -/
  | ldfSourceThree
  deriving DecidableEq, Repr

/-- A command without operands: all of `a` and `b` is reserved (R93). -/
def decodeBare (w : Word) (mnemonic : String) (i : Instr) : Except DecodeError Instr :=
  if w.extractLsb' 0 24 = 0 then .ok i else .error (.reservedBit mnemonic)

/-- SERI: `b` is the capacity, `a` is reserved. -/
def decodeSeri (w : Word) : Except DecodeError Instr :=
  if w.extractLsb' 16 8 = 0 then .ok (.seri (w.extractLsb' 0 16)) else .error (.reservedBit "SERI")

/-- SEGM: port `a[2:0]`, cls `a[3]`, sd `a[4]`, scid `b[9:0]`; `a[7:5]` and `b[15:10]` are reserved. -/
def decodeSegm (w : Word) : Except DecodeError Instr :=
  if w.extractLsb' 21 3 = 0 ∧ w.extractLsb' 10 6 = 0 then
    .ok (.segm (w.extractLsb' 16 3) (w.extractLsb' 19 1) (w.extractLsb' 20 1) (w.extractLsb' 0 10))
  else .error (.reservedBit "SEGM")

/-- REL and HOFF: `a` is the packet id, `b` is reserved. -/
def decodeId (w : Word) (mnemonic : String) (command : BitVec 8 → Instr) : Except DecodeError Instr :=
  if w.extractLsb' 0 16 = 0 then .ok (command (w.extractLsb' 16 8)) else .error (.reservedBit mnemonic)

/-- LDF: src `a[1:0]`, idx `b[7:0]`; `a[7:2]` and `b[15:8]` are reserved; `src = 3` is illegal. -/
def decodeLdf (w : Word) : Except DecodeError Instr :=
  if w.extractLsb' 18 6 = 0 ∧ w.extractLsb' 8 8 = 0 then
    if w.extractLsb' 16 2 = 3 then .error .ldfSourceThree
    else .ok (.ldf (w.extractLsb' 16 2) (w.extractLsb' 0 8))
  else .error (.reservedBit "LDF")

/-- The command a word stands for, or why it is illegal (R92, R95, R96). -/
def decode (w : Word) : Except DecodeError Instr :=
  match (w.extractLsb' 24 8).toNat with
  | 0x00 => decodeBare w "NOP" .nop
  | 0x01 => decodeBare w "SRST" .srst
  | 0x02 => decodeBare w "DCLR" .dclr
  | 0x10 => decodeBare w "HPACK" .hpack
  | 0x11 => decodeBare w "HUNPK" .hunpk
  | 0x12 => decodeBare w "SER" .ser
  | 0x13 => decodeSeri w
  | 0x14 => decodeBare w "DESER" .deser
  | 0x15 => decodeBare w "VALID" .valid
  | 0x20 => decodeBare w "ENQ" .enq
  | 0x21 => decodeBare w "DRAIN" .drain
  | 0x30 => decodeSegm w
  | 0x31 => decodeId w "REL" .rel
  | 0x32 => decodeId w "HOFF" .hoff
  | 0x33 => decodeBare w "FPEND" .fpend
  | 0x34 => decodeLdf w
  | 0x40 => decodeBare w "NMORE" .nmore
  | 0x41 => decodeBare w "ACCUM" .accum
  | 0x42 => decodeBare w "TOBITS" .tobits
  | 0x43 => decodeBare w "ACCCLR" .accclr
  | _ => .error (.unassignedOpcode (w.extractLsb' 24 8))

/-- The opcode of R95. -/
def Instr.opcode : Instr → BitVec 8
  | .nop => 0x00
  | .srst => 0x01
  | .dclr => 0x02
  | .hpack => 0x10
  | .hunpk => 0x11
  | .ser => 0x12
  | .seri _ => 0x13
  | .deser => 0x14
  | .valid => 0x15
  | .enq => 0x20
  | .drain => 0x21
  | .segm _ _ _ _ => 0x30
  | .rel _ => 0x31
  | .hoff _ => 0x32
  | .fpend => 0x33
  | .ldf _ _ => 0x34
  | .nmore => 0x40
  | .accum => 0x41
  | .tobits => 0x42
  | .accclr => 0x43

/-- Operand A, bits 23:16 of the word (R92, R93). -/
def Instr.operandA : Instr → BitVec 8
  | .segm port cls sd _ => (0#3 ++ sd ++ cls ++ port : BitVec 8)
  | .rel id => id
  | .hoff id => id
  | .ldf src _ => (0#6 ++ src : BitVec 8)
  | .nop | .srst | .dclr | .hpack | .hunpk | .ser | .seri _ | .deser | .valid | .enq | .drain | .fpend
  | .nmore | .accum | .tobits | .accclr => 0

/-- Operand B, bits 15:0 of the word (R92, R93). -/
def Instr.operandB : Instr → BitVec 16
  | .seri cap => cap
  | .segm _ _ _ scid => (0#6 ++ scid : BitVec 16)
  | .ldf _ idx => (0#8 ++ idx : BitVec 16)
  | .nop | .srst | .dclr | .hpack | .hunpk | .ser | .deser | .valid | .enq | .drain | .rel _ | .hoff _ | .fpend
  | .nmore | .accum | .tobits | .accclr => 0

/-- The command word: `op << 24 | a << 16 | b` (R101). -/
def encode (i : Instr) : Word :=
  (i.opcode ++ i.operandA ++ i.operandB : BitVec 32)

/-- The instruction the decoder reads from an instruction whose bits, numbered as spec/opcode_table.json numbers them, are
`w`; every bit above `nbits` is 0. The table's bit 0 is the word's bit 0. -/
def decodeTableWord (nbits w : Nat) : Option Instr :=
  match decode (BitVec.ofNat 32 (w % 2 ^ nbits)) with
  | .ok i => some i
  | .error _ => none

end Sys2Proof
end

