-- ==== Sys2Proof/Config.lean ====
section
/-! DEFINITION. What the spec leaves to the implementation: the open parameters of R6 with their constraints, and the
free values of spec/93_implementation_defined.md section 5. -/

namespace Sys2Proof

/-- The open parameters of R6. They are fixed before reset and never change during a run (R244); a state carries them in
`State.params`, so that a statement about every state is a statement about every setting. BUS_MAP is left out: no rule
depends on it (log 15). -/
structure Params where
  /-- SUPPORTED_VERSION, the only version VALID accepts and the version SEGM writes. -/
  supportedVersion : BitVec 2
  /-- DFC_UNSEG, the code of an unsegmented data field. -/
  dfcUnseg : BitVec 2
  /-- DFC_FRAG, the code of a fragmented data field. -/
  dfcFrag : BitVec 2
  /-- PDU_CMD, the PDU_ID value of a command-class PDU. -/
  pduCmd : BitVec 1
  /-- SF_FIRST, the SegFlag code of the first fragment. -/
  sfFirst : BitVec 2
  /-- SF_MIDDLE, the SegFlag code of a middle fragment. -/
  sfMiddle : BitVec 2
  /-- SF_LAST, the SegFlag code of the last fragment. -/
  sfLast : BitVec 2
  /-- SF_NONE, the SegFlag code of a single fragment. -/
  sfNone : BitVec 2
  /-- ACC_CAP, the accumulator's capacity in bytes. -/
  accCap : Nat
  deriving DecidableEq, Repr

/-- The constraints R6 puts on the open parameters. -/
abbrev Params.wf (p : Params) : Prop :=
  p.dfcUnseg ≠ p.dfcFrag ∧
  [p.sfFirst, p.sfMiddle, p.sfLast, p.sfNone].Nodup ∧
  255 ≤ p.accCap ∧ p.accCap ≤ 65535

/-- The defaults of R6, which the test vectors use. R6 gives no default for ACC_CAP: 65535, the largest admissible value,
is the model's own. DESIGN CHOICE (log 4), unsafe: no statement rests on it. -/
def Params.default : Params where
  supportedVersion := 2
  dfcUnseg := 0
  dfcFrag := 1
  pduCmd := 1
  sfFirst := 0
  sfMiddle := 1
  sfLast := 2
  sfNone := 3
  accCap := 65535

/-- The indexed spaces of R60. -/
inductive Space where
  | fpay | rx | sdu | o | tx | acc | bits | range
  deriving DecidableEq, Repr

/-- FREE VALUE (R206, R243, log 5): the byte that draw number `draw` finds at index `i` of a byte space where nothing
fixes it: FPAY, RX or SDU never written since reset; O, TX or ACC at or beyond the length register. -/
opaque Config.freeByte (draw : Nat) (space : Space) (i : Nat) : Byte

/-- FREE VALUE (R206, log 5): the element of BITS that draw number `draw` finds at an index at or beyond BITS_LEN. -/
opaque Config.freeBit (draw : Nat) (i : Nat) : Bool

/-- FREE VALUE (R64, log 14): what a host read outside a space returns. -/
opaque Config.freeWord (draw : Nat) (space : Space) (i : Nat) : Word

end Sys2Proof
end

