-- ==== Sys2Proof/Machine/Constants.lean ====
section
/-! DEFINITION. The fixed constants of R5. They are the document's literals, unaudited (spec/93 section 2). -/

namespace Sys2Proof.Machine

/-- HDR_SIZE: bytes in a PDU header. -/
@[reducible, simp] def hdrSize : Nat := 5

/-- SEG_SIZE: bytes in a segmentation header. -/
@[reducible, simp] def segSize : Nat := 1

/-- MAX_FRAME: the largest frame on the link, the size of TX. -/
@[reducible, simp] def maxFrame : Nat := 255

/-- MAX_UNFRAG_PAYLOAD: the largest payload of an unfragmented frame on the link. -/
@[reducible, simp] def maxUnfragPayload : Nat := 250

/-- MAX_FRAG_PAYLOAD: the largest payload of a fragment, and the segmentation threshold. -/
@[reducible, simp] def maxFragPayload : Nat := 249

/-- RB_CAP: the most frames RB holds. -/
@[reducible, simp] def rbCap : Nat := 255

/-- ID_COUNT: packet ids are 0 to 254. -/
@[reducible, simp] def idCount : Nat := 255

/-- MQ_CAP: the most frames MQ holds. -/
@[reducible, simp] def mqCap : Nat := 255

/-- BITS_CAP: the most elements BITS holds. -/
@[reducible, simp] def bitsCap : Nat := 8192

/-- PLEN_MAX: the largest payload of a frame record, the size of FPAY. -/
@[reducible, simp] def plenMax : Nat := 255

/-- O_CAP: the size of O, HDR_SIZE + SEG_SIZE + PLEN_MAX. -/
@[reducible, simp] def oCap : Nat := 261

/-- The bytes of RX (R37). -/
@[reducible, simp] def rxCap : Nat := 255

/-- The bytes of SDU (R38). -/
@[reducible, simp] def sduCap : Nat := 65535

/-- ID_SENTINEL: the result in place of a packet id on failure. -/
@[reducible, simp] def idSentinel : Nat := 255

end Sys2Proof.Machine
end

