-- ==== Sys2Proof/Machine/State.lean ====
section
/-! DEFINITION. The state of the PDU block (spec/10_state.md), the host's actions, the reasons a step can stop, and the
state after reset (R240). -/

namespace Sys2Proof.Machine

/-- The PDU header record of R20: the fields of the 5-byte header (R81). -/
structure Header where
  ver : BitVec 2
  qos : BitVec 1
  pduId : BitVec 1
  dfc : BitVec 2
  scId : BitVec 10
  pcId : BitVec 1
  port : BitVec 3
  sdId : BitVec 1
  dlen : BitVec 11
  fsn : BitVec 8
  deriving DecidableEq, Repr

/-- The segmentation header record of R20: the fields of the 1-byte header (R85). -/
structure SegHeader where
  flag : BitVec 2
  ppid : BitVec 6
  deriving DecidableEq, Repr

/-- A frame (R20): `pv` payload present, `frag` the variant tag, and a payload of its own (R49), whose length is apart
from `hdr.dlen`. -/
structure Frame where
  pv : Bool
  frag : Bool
  hdr : Header
  seg : SegHeader
  pay : List Byte
  deriving DecidableEq, Repr

/-- A byte space the host writes: the cells written since reset, indices strictly rising. An index not listed has not been
written since reset (log 11). -/
abbrev Memory := List Host.Cell

/-- The frame register F (R22): a frame's scalar fields, the length F.plen and the payload array FPAY. -/
structure FrameReg where
  pv : Bool
  frag : Bool
  hdr : Header
  seg : SegHeader
  plen : BitVec 8
  pay : Memory
  deriving DecidableEq, Repr

/-- One packet id's row of the index: ALLOC[i] (R26), HOFF[i] (R28) and RANGE[i] = (first, last), both inclusive (R27). -/
structure IdEntry where
  alloc : Bool
  handed : Bool
  first : Nat
  last : Nat
  deriving DecidableEq, Repr

/-- The status codes of R215, by name. -/
inductive StatusCode where
  | ok
  | illegalCmd
  | absent
  | bufTooSmall
  | queueEmpty
  | queueFull
  | noFreeId
  | capacity
  | invalidId
  | shortInput
  | accOverflow
  | nonePending
  | badIndex
  | allocFail
  deriving DecidableEq, Repr

/-- The scalar registers of R41, by name. -/
inductive Reg where
  | cmd | status | result | diag | cfg | ppid | rbCount | pktCount | mqLen | txLen | oLen | rxLen | sduLen | accLen
  | bitsLen | hoCount | fHdra | fFsn | fCtl
  deriving DecidableEq, Repr

/-- What reaches the block from outside, between commands (R9): the host's accesses (R204 to R207), of which a write to
CMD is a command (R67), and the hardware reset input (R241). -/
inductive HostAction where
  | writeReg (r : Reg) (v : Word)
  | readReg (r : Reg)
  | writeSpace (space : Space) (i : Nat) (v : Word)
  | readSpace (space : Space) (i : Nat)
  | hardwareReset
  deriving DecidableEq, Repr

/-- Why the machine stops. No command and no host access stops it (R224). -/
inductive Fault where
  /-- Raised by `step` alone, when the host has no action left: the run has ended (R10). Safe: nothing follows from it
  about the block (log 2). -/
  | runEnded
  deriving DecidableEq, Repr

/-- Why a command has no meaning in the model. -/
inductive Refusal where
  /-- Raised by `exec` for a command whose meaning is not written yet; safe. No arm raises it: every command is modelled. -/
  | notModelled (mnemonic : String)
  deriving DecidableEq, Repr

/-- The state. The first fields are the block's, in the order of spec/10_state.md; the last four are the model's own. -/
structure State where
  /-- STATUS, 8 bits (R40). -/
  status : BitVec 8
  /-- RESULT, 16 bits (R40). -/
  result : BitVec 16
  /-- DIAG, 16 bits (R40, R220). -/
  diag : BitVec 16
  /-- CFG, 2 bits: [0] qos, [1] pc_id (R39). -/
  cfg : BitVec 2
  /-- PPID, 6 bits (R36). -/
  ppid : BitVec 6
  /-- The frame register F with FPAY (R22). -/
  f : FrameReg
  /-- RB; RB_COUNT is its length (R25). -/
  rb : List Frame
  /-- ALLOC, RANGE and HOFF (R26 to R28): entry i is packet id i, 255 entries. -/
  ids : List IdEntry
  /-- PKT_COUNT (R29). -/
  pktCount : Nat
  /-- MQ; MQ_LEN is its length (R30). -/
  mq : List Frame
  /-- TX; TX_LEN is its length (R31). -/
  tx : List Byte
  /-- O; O_LEN is its length (R32). -/
  o : List Byte
  /-- RX (R37). -/
  rx : Memory
  /-- RX_LEN, 8 bits (R37). -/
  rxLen : BitVec 8
  /-- SDU (R38). -/
  sdu : Memory
  /-- SDU_LEN, 16 bits (R38). -/
  sduLen : BitVec 16
  /-- HO; HO_COUNT is its length (R33). -/
  ho : List Frame
  /-- ACC; ACC_LEN is its length (R34). -/
  acc : List Byte
  /-- BITS; BITS_LEN is its length (R35). -/
  bits : List Bool
  /-- The open parameters (R6), never changed (R244; log 3). -/
  params : Params
  /-- The model's own: how many draws of free values there have been (log 5, 6). -/
  draws : Nat
  /-- The model's own: the value the last host read returned (log 7). -/
  readData : Word
  /-- The model's own: the host's actions still to be performed, the first first (R9, R68; log 1). -/
  pending : List HostAction
  deriving DecidableEq, Repr

/-- A header with every field 0. -/
def Header.zero : Header where
  ver := 0
  qos := 0
  pduId := 0
  dfc := 0
  scId := 0
  pcId := 0
  port := 0
  sdId := 0
  dlen := 0
  fsn := 0

/-- A segmentation header with every field 0, as an unfragmented frame has it (R20). -/
def SegHeader.zero : SegHeader where
  flag := 0
  ppid := 0

/-- The empty frame in F (R24), nothing written to FPAY (R240). -/
def FrameReg.empty : FrameReg where
  pv := false
  frag := false
  hdr := .zero
  seg := .zero
  plen := 0
  pay := []

/-- The row of a Free id (R27, R48). -/
def IdEntry.free : IdEntry where
  alloc := false
  handed := false
  first := 0
  last := 0

/-- The state of R240 under the parameters `p`; the model's own fields at 0, and no host action pending (log 1, 6, 7). -/
def State.resetWith (p : Params) : State where
  status := 0
  result := 0
  diag := 0
  cfg := 0
  ppid := 0
  f := .empty
  rb := []
  ids := List.replicate idCount .free
  pktCount := 0
  mq := []
  tx := []
  o := []
  rx := []
  rxLen := 0
  sdu := []
  sduLen := 0
  ho := []
  acc := []
  bits := []
  params := p
  draws := 0
  readData := 0
  pending := []

/-- The state right after reset (R240), at the default parameters of R6 (log 3, 4). -/
def State.reset : State := State.resetWith Params.default

end Sys2Proof.Machine
end

