-- ==== Sys2Proof/Machine/Flags.lean ====
section
/-! DEFINITION. The status bits. The block has no condition codes (R52): what it has is STATUS, a code (R215), and DIAG,
one sticky bit per nonzero code (R220). -/

namespace Sys2Proof.Machine

/-- The code numbers of R215. -/
def StatusCode.code : StatusCode → Nat
  | .ok => 0
  | .illegalCmd => 1
  | .absent => 2
  | .bufTooSmall => 3
  | .queueEmpty => 4
  | .queueFull => 5
  | .noFreeId => 6
  | .capacity => 7
  | .invalidId => 8
  | .shortInput => 9
  | .accOverflow => 10
  | .nonePending => 11
  | .badIndex => 12
  | .allocFail => 13

/-- STATUS as a command leaves it when it ends with code `c` (R215). -/
def statusOf (c : StatusCode) : BitVec 8 := BitVec.ofNat 8 c.code

/-- `DIAG[X] <- 1` (R219, R220): the bit of code `c` is set, the others stay. -/
def setDiag (d : BitVec 16) (c : StatusCode) : BitVec 16 := d ||| BitVec.twoPow 16 c.code

/-- CFG.qos, bit 0 (R39). -/
def State.cfgQos (s : State) : BitVec 1 := s.cfg.extractLsb' 0 1

/-- CFG.pc_id, bit 1 (R39). -/
def State.cfgPcId (s : State) : BitVec 1 := s.cfg.extractLsb' 1 1

end Sys2Proof.Machine
end

