-- ==== Sys2Proof/Machine/Ops.lean ====
section
/-! DEFINITION. The operations the commands share: how a command ends (R219), the byte spaces the host writes (R60), the
packet-id index (R26 to R28, R156), and reset (R240, R241). -/

namespace Sys2Proof.Machine

/-- `done v` (R219): STATUS gets ST_OK, RESULT gets `v`, DIAG stays. The draw counter goes on (log 5). -/
def finish (v : Nat) (s : State) : State :=
  { s with status := statusOf .ok, result := BitVec.ofNat 16 v, draws := s.draws + 1 }

/-- `fail ST_X with RESULT = v` (R219), the block's whole exception mechanism: STATUS gets the code, its DIAG bit is set,
RESULT gets `v` (0 where the rule names none), and nothing else changes. Nothing is saved and control goes nowhere, so
there is no return beside it (R223). The draw counter goes on (log 5). -/
def fail (c : StatusCode) (v : Nat) (s : State) : State :=
  { s with
    status := statusOf c
    result := BitVec.ofNat 16 v
    diag := setDiag s.diag c
    draws := s.draws + 1 }

/-- The byte written at index `i` since reset, if there is one. -/
def Memory.read (m : Memory) (i : Nat) : Option Byte :=
  match m with
  | [] => none
  | c :: rest => if c.1 = i then some c.2 else Memory.read rest i

/-- Store `b` at index `i`, keeping the indices strictly rising. -/
def Memory.write (m : Memory) (i : Nat) (b : Byte) : Memory :=
  match m with
  | [] => [(i, b)]
  | c :: rest =>
    if i < c.1 then (i, b) :: c :: rest
    else if c.1 = i then (i, b) :: rest
    else c :: Memory.write rest i b

/-- The canonical form of a space of `size` bytes: indices strictly rising and within the space. An unlisted index reads
as "nothing written", which no cell holds, so equal contents are equal lists (log 11). -/
abbrev Memory.wf (size : Nat) (m : Memory) : Prop :=
  m.Pairwise (fun c d => c.1 < d.1) ∧ ∀ c ∈ m, c.1 < size

/-- A space of `size` bytes written whole: `bytes`, then zeros to the end. -/
def Memory.filled (size : Nat) (bytes : List Byte) : Memory :=
  (List.range size).map fun i => (i, bytes.getD i 0)

/-- Row `i` of the packet-id index; past the index a Free row (log 10). -/
def State.entry (s : State) (i : Nat) : IdEntry := s.ids.getD i .free

/-- ALLOC[i] (R26). -/
def State.allocated (s : State) (i : Nat) : Bool := (s.entry i).alloc

/-- The least packet id that meets `p`, if there is one. -/
def leastId (p : Nat → Bool) : Option Nat := (List.range idCount).find? p

/-- `free_id()` (R156): the least Free id, or the sentinel 255. -/
def State.freeId (s : State) : Nat := (leastId fun i => !s.allocated i).getD idSentinel

/-- Reset (R240, R241): every piece of the block's state gets its reset value. The parameters, the host's pending actions
and the value it read last are no state of the block, and the draw counter goes on, since what was written before is
unspecified again (log 5, 8). -/
def resetBlock (s : State) : State :=
  { State.resetWith s.params with draws := s.draws, readData := s.readData, pending := s.pending }

/-- An illegal command (R96): ST_ILLEGAL_CMD, RESULT 0, nothing else. -/
def illegalCommand (s : State) : State := fail .illegalCmd 0 s

end Sys2Proof.Machine
end

