-- ==== Sys2Proof/Machine/Wire.lean ====
section
/-! DEFINITION. The wire formats (spec/30_encoding.md part A) and the pure functions of the Frame Codec
(spec/40_frame_codec.md section 1). -/

namespace Sys2Proof.Machine

/-- Byte 0 of the PDU header: VersionNum, QoS, PDU_ID, DFC_ID, SC_ID_high (R81, R110). -/
def Header.byte0 (h : Header) : Byte := h.ver ++ h.qos ++ h.pduId ++ h.dfc ++ h.scId.extractLsb' 8 2

/-- Byte 1: SC_ID_low. -/
def Header.byte1 (h : Header) : Byte := h.scId.extractLsb' 0 8

/-- Byte 2: PC_ID, PortID, SD_ID, data_length_high. -/
def Header.byte2 (h : Header) : Byte := h.pcId ++ h.port ++ h.sdId ++ h.dlen.extractLsb' 8 3

/-- Byte 3: data_length_low. -/
def Header.byte3 (h : Header) : Byte := h.dlen.extractLsb' 0 8

/-- Byte 4: FSN. -/
def Header.byte4 (h : Header) : Byte := h.fsn

/-- `pack_hdr` (R110). -/
def packHdr (h : Header) : List Byte := [h.byte0, h.byte1, h.byte2, h.byte3, h.byte4]

/-- `unpack_hdr` (R111) on the first five bytes of `b`; total on five bytes and more. -/
def unpackHdr (b : List Byte) : Header where
  ver := (b.getD 0 0).extractLsb' 6 2
  qos := (b.getD 0 0).extractLsb' 5 1
  pduId := (b.getD 0 0).extractLsb' 4 1
  dfc := (b.getD 0 0).extractLsb' 2 2
  scId := (b.getD 0 0).extractLsb' 0 2 ++ b.getD 1 0
  pcId := (b.getD 2 0).extractLsb' 7 1
  port := (b.getD 2 0).extractLsb' 4 3
  sdId := (b.getD 2 0).extractLsb' 3 1
  dlen := (b.getD 2 0).extractLsb' 0 3 ++ b.getD 3 0
  fsn := b.getD 4 0

/-- `pack_seg` (R112): SegFlag in bits 7:6, PseudoPacketID in bits 5:0 (R85). -/
def packSeg (s : SegHeader) : Byte := s.flag ++ s.ppid

/-- `unpack_seg` (R113). -/
def unpackSeg (x : Byte) : SegHeader where
  flag := x.extractLsb' 6 2
  ppid := x.extractLsb' 0 6

/-- `ser_len` (R114): the variant tag decides whether the segmentation header counts. -/
def serLen (f : Frame) : Nat := hdrSize + (if f.frag then segSize else 0) + f.pay.length

/-- `ser_bytes` (R114): header, segmentation header when the tag says so, payload; nothing follows (R80). -/
def serBytes (f : Frame) : List Byte :=
  packHdr f.hdr ++ (if f.frag then [packSeg f.seg] else []) ++ f.pay

/-- `parse` (R120, R86): the frame the bytes describe and the count of bytes consumed, or `none` for `short`. DFC_ID alone
tells the form; the payload length is data_length_low, byte 3; bytes beyond the frame are ignored. -/
def parse (p : Params) (b : List Byte) : Option (Frame × Nat) :=
  if b.length < hdrSize then none
  else
    let h := unpackHdr b
    let fr := decide (h.dfc = p.dfcFrag)
    let off := if fr then hdrSize + segSize else hdrSize
    let pl := (b.getD 3 0).toNat
    if b.length < off + pl then none
    else
      some ({ pv := true
              frag := fr
              hdr := h
              seg := if fr then unpackSeg (b.getD hdrSize 0) else .zero
              pay := (b.drop off).take pl }, off + pl)

/-- `bits_of` (R189): most significant bit of each byte first. -/
def bitsOf (b : List Byte) : List Bool :=
  b.flatMap fun x => [x[7], x[6], x[5], x[4], x[3], x[2], x[1], x[0]]

end Sys2Proof.Machine
end

