-- ==== Sys2Proof/Machine/Operands.lean ====
section
/-! DEFINITION. Where the commands take their operands from and put their results: the frame register F and FPAY (R22,
R23), RX (R37), SDU (R38), the stored sequences (R171), a packet-id operand (R165, R167). -/

namespace Sys2Proof.Machine

/-- FPAY[i]: the byte written since reset, or a free value (R243). -/
def State.fpayByte (s : State) (i : Nat) : Byte := (Memory.read s.f.pay i).getD (Config.freeByte s.draws .fpay i)

/-- RX[i]: the byte written since reset, or a free value (R243). -/
def State.rxByte (s : State) (i : Nat) : Byte := (Memory.read s.rx i).getD (Config.freeByte s.draws .rx i)

/-- SDU[i]: the byte written since reset, or a free value (R243). -/
def State.sduByte (s : State) (i : Nat) : Byte := (Memory.read s.sdu i).getD (Config.freeByte s.draws .sdu i)

/-- `frame_of_F` (R23): F's scalar fields as they stand, and FPAY[0 .. F.plen-1]. -/
def frameOfF (s : State) : Frame where
  pv := s.f.pv
  frag := s.f.frag
  hdr := s.f.hdr
  seg := s.f.seg
  pay := (List.range s.f.plen.toNat).map s.fpayByte

/-- `F <- f` (R23): every scalar field, F.plen, the payload, and zeros in FPAY beyond it. -/
def loadF (g : Frame) (s : State) : State :=
  { s with
    f := { pv := g.pv
           frag := g.frag
           hdr := g.hdr
           seg := g.seg
           plen := BitVec.ofNat 8 g.pay.length
           pay := Memory.filled plenMax g.pay } }

/-- RX[0 .. RX_LEN-1], the received bytes (R37). -/
def rxBytes (s : State) : List Byte := (List.range s.rxLen.toNat).map s.rxByte

/-- SDU[i .. i+n-1] (R38). -/
def sduSlice (s : State) (i n : Nat) : List Byte := (List.range n).map fun j => s.sduByte (i + j)

/-- A packet-id operand names an allocated id (R166): it is 0 to 254 and its bitmap bit is set. -/
def validId (id : Nat) (s : State) : Bool := decide (id < idCount) && s.allocated id

/-- LDF's source sequence (R93, R171): 0 = RB, 1 = HO, 2 = MQ; 3 is illegal (R96). -/
def sourceFrames (src : BitVec 2) (s : State) : Option (List Frame) :=
  if src = 0 then some s.rb
  else if src = 1 then some s.ho
  else if src = 2 then some s.mq
  else none

end Sys2Proof.Machine
end

