-- ==== Sys2Proof/Machine/Codec.lean ====
section
/-! DEFINITION. The Frame Codec commands HPACK, HUNPK, SER, SERI, DESER, VALID (spec/40_frame_codec.md section 2). -/

namespace Sys2Proof.Machine

/-- HPACK (R115): the bare packer; it does not look at F.pv, F.frag, F.seg or FPAY. -/
def execHpack (s : State) : Host.Outcome State Fault Refusal :=
  .next (finish hdrSize { s with o := packHdr s.f.hdr })

/-- HUNPK (R116): the bare unpacker; F.pv, F.frag, F.plen, F.seg and FPAY stay. -/
def execHunpk (s : State) : Host.Outcome State Fault Refusal :=
  if s.rxLen.toNat < hdrSize then .next (fail .shortInput 0 s)
  else .next (finish hdrSize { s with f := { s.f with hdr := unpackHdr (rxBytes s) } })

/-- SER (R117): into the whole of O, so it never fails for size. -/
def execSer (s : State) : Host.Outcome State Fault Refusal :=
  let f := frameOfF s
  if f.pv = false then .next (fail .absent 0 { s with o := [] })
  else .next (finish (serLen f) { s with o := serBytes f })

/-- SERI (R118): absence is tested first, then the capacity, strictly. -/
def execSeri (cap : BitVec 16) (s : State) : Host.Outcome State Fault Refusal :=
  let f := frameOfF s
  if f.pv = false then .next (fail .absent 0 { s with o := [] })
  else if cap.toNat < serLen f then .next (fail .bufTooSmall 0 { s with o := [] })
  else .next (finish (serLen f) { s with o := serBytes f })

/-- DESER (R121): RESULT is the count of input bytes consumed. -/
def execDeser (s : State) : Host.Outcome State Fault Refusal :=
  match parse s.params (rxBytes s) with
  | none => .next (fail .shortInput 0 s)
  | some (f, k) => .next (finish k (loadF f s))

/-- VALID (R122): a false answer is a result, not a failure. -/
def execValid (s : State) : Host.Outcome State Fault Refusal :=
  .next (finish (if s.f.pv = true ∧ s.f.hdr.ver = s.params.supportedVersion then 1 else 0) s)

end Sys2Proof.Machine
end

