-- ==== Sys2Proof/Machine/Multiplexer.lean ====
section
/-! DEFINITION. The Transmit Multiplexer commands ENQ, DRAIN (spec/41_multiplexer.md). -/

namespace Sys2Proof.Machine

/-- The priority classes of R140. -/
inductive FrameClass where
  | fragment | command | data
  deriving DecidableEq, Repr

/-- The class of a frame, by its variant tag and PDU_ID only (R140). -/
def frameClass (p : Params) (g : Frame) : FrameClass :=
  if g.frag then .fragment
  else if g.hdr.pduId = p.pduCmd then .command
  else .data

/-- `ins_pos` (R141): a command goes before the first queued data frame; everything else, and a command when no data frame
is queued, goes to the tail. -/
def insPos (p : Params) (g : Frame) (mq : List Frame) : Nat :=
  if frameClass p g = .command then mq.findIdx (fun h => decide (frameClass p h = .data))
  else mq.length

/-- ENQ (R142): absence is tested first, then the full queue. MQ_LEN never exceeds 255 (R47, log 13). -/
def execEnq (s : State) : Host.Outcome State Fault Refusal :=
  let g := frameOfF s
  if g.pv = false then .next (fail .absent 0 s)
  else if mqCap ≤ s.mq.length then .next (fail .queueFull 0 s)
  else
    let k := insPos s.params g s.mq
    .next (finish k { s with mq := s.mq.take k ++ g :: s.mq.drop k })

/-- DRAIN (R144): the head frame into TX; an oversize head stays (R145). -/
def execDrain (s : State) : Host.Outcome State Fault Refusal :=
  match s.mq with
  | [] => .next (fail .queueEmpty 0 { s with tx := [] })
  | h :: rest =>
    if h.pv = false then .next (fail .absent 0 { s with tx := [] })
    else if maxFrame < serLen h then .next (fail .bufTooSmall 0 { s with tx := [] })
    else .next (finish (serLen h) { s with tx := serBytes h, mq := rest })

end Sys2Proof.Machine
end

