-- ==== Sys2Proof/Machine/Reception.lean ====
section
/-! DEFINITION. The reception commands NMORE, ACCUM, TOBITS, ACCCLR (spec/43_reception.md). -/

namespace Sys2Proof.Machine

/-- NMORE (R186): by the variant tag and SegFlag only. -/
def execNmore (s : State) : Host.Outcome State Fault Refusal :=
  .next (finish
    (if s.f.frag = true ∧ (s.f.seg.flag = s.params.sfFirst ∨ s.f.seg.flag = s.params.sfMiddle) then 1 else 0) s)

/-- ACCUM (R188): an unfragmented frame replaces the accumulator's content, a fragment, FIRST included, is appended. -/
def execAccum (s : State) : Host.Outcome State Fault Refusal :=
  let g := frameOfF s
  if g.pv = false then .next (fail .absent 0 s)
  else if g.frag = false then .next (finish g.pay.length { s with acc := g.pay })
  else if s.params.accCap < s.acc.length + g.pay.length then .next (fail .accOverflow 0 s)
  else .next (finish (s.acc.length + g.pay.length) { s with acc := s.acc ++ g.pay })

/-- TOBITS (R190): the first 8192 bits of ACC, silently truncated; ACC is emptied in every case. -/
def execTobits (s : State) : Host.Outcome State Fault Refusal :=
  let m := min (8 * s.acc.length) bitsCap
  .next (finish m { s with bits := (bitsOf s.acc).take m, acc := [] })

/-- ACCCLR (R192). -/
def execAccclr (s : State) : Host.Outcome State Fault Refusal :=
  .next (finish 0 { s with acc := [] })

end Sys2Proof.Machine
end

