-- ==== Sys2Proof/Machine/Segmentation.lean ====
section
/-! DEFINITION. The Segmentation and Reassembly Buffer commands SEGM, REL, HOFF, FPEND, LDF
(spec/42_segmentation_buffer.md). -/

namespace Sys2Proof.Machine

/-- `fragd(L)` (R157): an SDU of more than 249 bytes is fragmented. -/
def fragmented (L : Nat) : Bool := decide (maxFragPayload < L)

/-- `n(L)` (R157): ceil(L / 249) fragments, or the one frame of the fast path. -/
def fragCount (L : Nat) : Nat :=
  if fragmented L then (L + (maxFragPayload - 1)) / maxFragPayload else 1

/-- `len(k)` (R158). -/
def fragLen (L k : Nat) : Nat := min maxFragPayload (L - maxFragPayload * k)

/-- `flag(k, n)` (R161). -/
def segFlag (p : Params) (k n : Nat) : BitVec 2 :=
  if n = 1 then p.sfNone
  else if k = 0 then p.sfFirst
  else if k = n - 1 then p.sfLast
  else p.sfMiddle

/-- Frame `k` of the frames SEGM builds from SDU[0 .. SDU_LEN-1] (R160, R163). -/
def builtFrame (port : BitVec 3) (cls sd : BitVec 1) (scid : BitVec 10) (s : State) (k : Nat) : Frame :=
  let L := s.sduLen.toNat
  let fr := fragmented L
  { pv := true
    frag := fr
    hdr := { ver := s.params.supportedVersion
             qos := s.cfgQos
             pduId := cls
             dfc := if fr then s.params.dfcFrag else s.params.dfcUnseg
             scId := scid
             pcId := s.cfgPcId
             port := port
             sdId := sd
             dlen := BitVec.ofNat 11 (fragLen L k)
             fsn := BitVec.ofNat 8 k }
    seg := if fr then { flag := segFlag s.params k (fragCount L), ppid := s.ppid } else .zero
    pay := sduSlice s (maxFragPayload * k) (fragLen L k) }

/-- SEGM (R160): the free id is tested first, then the capacity, the fast path included; all or nothing (R164). PPID is
read, then advanced, by a successful fragmenting SEGM only (R162). -/
def execSegm (port : BitVec 3) (cls sd : BitVec 1) (scid : BitVec 10) (s : State) : Host.Outcome State Fault Refusal :=
  let n := fragCount s.sduLen.toNat
  let id := s.freeId
  let start := s.rb.length
  if id = idSentinel then .next (fail .noFreeId idSentinel s)
  else if rbCap < start + n then .next (fail .capacity idSentinel s)
  else
    .next (finish id { s with
      rb := s.rb ++ (List.range n).map (builtFrame port cls sd scid s)
      ids := s.ids.set id { alloc := true, handed := false, first := start, last := start + n - 1 }
      pktCount := s.pktCount + 1
      ppid := if fragmented s.sduLen.toNat then s.ppid + 1 else s.ppid })

/-- The re-basing of REL (R165): a range that starts beyond the removed block, whose end was `last`, moves down by `c`. -/
def rebase (last c : Nat) (e : IdEntry) : IdEntry :=
  if e.alloc = true ∧ last < e.first then { e with first := e.first - c, last := e.last - c } else e

/-- REL (R165): remove the id's run, close the gap, re-base the ranges beyond it. An invalid id changes nothing (R166). -/
def execRel (id : BitVec 8) (s : State) : Host.Outcome State Fault Refusal :=
  if validId id.toNat s = false then .next (fail .invalidId 0 s)
  else
    let e := s.entry id.toNat
    let c := e.last - e.first + 1
    .next (finish c { s with
      rb := s.rb.take e.first ++ s.rb.drop (e.last + 1)
      ids := (s.ids.map (rebase e.last c)).set id.toNat .free
      pktCount := s.pktCount - 1 })

/-- HOFF (R167): HO becomes a copy of the id's frames, whole or not made (R168); the id is HandedOff. -/
def execHoff (id : BitVec 8) (s : State) : Host.Outcome State Fault Refusal :=
  if validId id.toNat s = false then .next (fail .invalidId 0 { s with ho := [] })
  else
    let e := s.entry id.toNat
    let c := e.last - e.first + 1
    .next (finish c { s with
      ho := (s.rb.drop e.first).take c
      ids := s.ids.set id.toNat { e with handed := true } })

/-- FPEND (R169): the least allocated id whose range starts at 0; it does not look at HOFF. -/
def execFpend (s : State) : Host.Outcome State Fault Refusal :=
  match leastId (fun i => s.allocated i && decide ((s.entry i).first = 0)) with
  | none => .next (fail .nonePending idSentinel s)
  | some id => .next (finish id s)

/-- LDF (R171): a stored frame copied into F. `src = 3` is an illegal command (R96, log 12). -/
def execLdf (src : BitVec 2) (idx : BitVec 8) (s : State) : Host.Outcome State Fault Refusal :=
  match sourceFrames src s with
  | none => .next (illegalCommand s)
  | some seq =>
    match seq[idx.toNat]? with
    | none => .next (fail .badIndex 0 s)
    | some g => .next (finish g.pay.length (loadF g s))

end Sys2Proof.Machine
end

