-- ==== Sys2Proof/Machine/System.lean ====
section
/-! DEFINITION. The system commands NOP, SRST, DCLR (spec/44_system.md section 1). -/

namespace Sys2Proof.Machine

/-- NOP (R200). -/
def execNop (s : State) : Host.Outcome State Fault Refusal := .next (finish 0 s)

/-- SRST (R201): the state of R240. -/
def execSrst (s : State) : Host.Outcome State Fault Refusal := .next (finish 0 (resetBlock s))

/-- DCLR (R202). -/
def execDclr (s : State) : Host.Outcome State Fault Refusal := .next (finish 0 { s with diag := 0 })

end Sys2Proof.Machine
end

