-- ==== Sys2Proof/Machine/Dispatch.lean ====
section
/-! DEFINITION. One arm per command, each one call of its meaning. -/

namespace Sys2Proof.Machine

/-- The meaning of a command in a state (R8). -/
def exec (i : Instr) (s : State) : Host.Outcome State Fault Refusal :=
  match i with
  | .nop => Sys2Proof.Machine.execNop s
  | .srst => Sys2Proof.Machine.execSrst s
  | .dclr => Sys2Proof.Machine.execDclr s
  | .hpack => Sys2Proof.Machine.execHpack s
  | .hunpk => Sys2Proof.Machine.execHunpk s
  | .ser => Sys2Proof.Machine.execSer s
  | .seri cap => Sys2Proof.Machine.execSeri cap s
  | .deser => Sys2Proof.Machine.execDeser s
  | .valid => Sys2Proof.Machine.execValid s
  | .enq => Sys2Proof.Machine.execEnq s
  | .drain => Sys2Proof.Machine.execDrain s
  | .segm port cls sd scid => Sys2Proof.Machine.execSegm port cls sd scid s
  | .rel id => Sys2Proof.Machine.execRel id s
  | .hoff id => Sys2Proof.Machine.execHoff id s
  | .fpend => Sys2Proof.Machine.execFpend s
  | .ldf src idx => Sys2Proof.Machine.execLdf src idx s
  | .nmore => Sys2Proof.Machine.execNmore s
  | .accum => Sys2Proof.Machine.execAccum s
  | .tobits => Sys2Proof.Machine.execTobits s
  | .accclr => Sys2Proof.Machine.execAccclr s

end Sys2Proof.Machine
end

