-- ==== Sys2Proof/Machine/HostAccess.lean ====
section
/-! DEFINITION. What the host does to the block: register and space accesses (R204 to R207, R41, R60), command writes
(R205, R8) and the hardware reset (R241). -/

namespace Sys2Proof.Machine

/-- The register numbers of R41. -/
def Reg.number : Reg → Nat
  | .cmd => 0
  | .status => 1
  | .result => 2
  | .diag => 3
  | .cfg => 4
  | .ppid => 5
  | .rbCount => 6
  | .pktCount => 7
  | .mqLen => 8
  | .txLen => 9
  | .oLen => 10
  | .rxLen => 11
  | .sduLen => 12
  | .accLen => 13
  | .bitsLen => 14
  | .hoCount => 15
  | .fHdra => 16
  | .fFsn => 17
  | .fCtl => 18

/-- F_HDRA (R41, R73): the first four header bytes as one big-endian word. -/
def hdraOf (h : Header) : Word := h.byte0 ++ h.byte1 ++ h.byte2 ++ h.byte3

/-- The header whose F_HDRA is `v` and whose F_FSN is `fsn` (R41). -/
def headerOf (v : Word) (fsn : Byte) : Header where
  ver := v.extractLsb' 30 2
  qos := v.extractLsb' 29 1
  pduId := v.extractLsb' 28 1
  dfc := v.extractLsb' 26 2
  scId := v.extractLsb' 16 10
  pcId := v.extractLsb' 15 1
  port := v.extractLsb' 12 3
  sdId := v.extractLsb' 11 1
  dlen := v.extractLsb' 0 11
  fsn := fsn

/-- F_CTL (R41): [23:22] seg.flag, [21:16] seg.ppid, [15:8] plen, [7:2] reserved, read as 0, [1] frag, [0] pv. -/
def ctlOf (f : FrameReg) : BitVec 24 :=
  f.seg.flag ++ f.seg.ppid ++ f.plen ++ 0#6 ++ BitVec.ofBool f.frag ++ BitVec.ofBool f.pv

/-- `HostRead(reg)` (R204): the register at its width, zero-extended. CMD reads as 0. -/
def hostReadReg (r : Reg) (s : State) : Word :=
  match r with
  | .cmd => 0
  | .status => s.status.setWidth 32
  | .result => s.result.setWidth 32
  | .diag => s.diag.setWidth 32
  | .cfg => s.cfg.setWidth 32
  | .ppid => s.ppid.setWidth 32
  | .rbCount => (BitVec.ofNat 8 s.rb.length).setWidth 32
  | .pktCount => (BitVec.ofNat 8 s.pktCount).setWidth 32
  | .mqLen => (BitVec.ofNat 8 s.mq.length).setWidth 32
  | .txLen => (BitVec.ofNat 8 s.tx.length).setWidth 32
  | .oLen => (BitVec.ofNat 9 s.o.length).setWidth 32
  | .rxLen => s.rxLen.setWidth 32
  | .sduLen => s.sduLen.setWidth 32
  | .accLen => (BitVec.ofNat 16 s.acc.length).setWidth 32
  | .bitsLen => (BitVec.ofNat 14 s.bits.length).setWidth 32
  | .hoCount => (BitVec.ofNat 8 s.ho.length).setWidth 32
  | .fHdra => hdraOf s.f.hdr
  | .fFsn => s.f.hdr.fsn.setWidth 32
  | .fCtl => (ctlOf s.f).setWidth 32

/-- `HostWrite(reg, v)` of a register other than CMD (R205): the low bits of `v` up to the width; a read-only register is
not changed. -/
def hostWriteReg (r : Reg) (v : Word) (s : State) : State :=
  match r with
  | .cfg => { s with cfg := v.setWidth 2 }
  | .rxLen => { s with rxLen := v.setWidth 8 }
  | .sduLen => { s with sduLen := v.setWidth 16 }
  | .fHdra => { s with f := { s.f with hdr := headerOf v s.f.hdr.fsn } }
  | .fFsn => { s with f := { s.f with hdr := { s.f.hdr with fsn := v.setWidth 8 } } }
  | .fCtl =>
    { s with f := { s.f with
        pv := v[0]
        frag := v[1]
        plen := v.extractLsb' 8 8
        seg := { flag := v.extractLsb' 22 2, ppid := v.extractLsb' 16 6 } } }
  | .cmd | .status | .result | .diag | .ppid | .rbCount | .pktCount | .mqLen | .txLen | .oLen | .accLen | .bitsLen
  | .hoCount => s

/-- How many elements a space has (R60). -/
def spaceSize (p : Params) : Space → Nat
  | .fpay => plenMax
  | .rx => rxCap
  | .sdu => sduCap
  | .o => oCap
  | .tx => maxFrame
  | .acc => p.accCap
  | .bits => bitsCap
  | .range => idCount

/-- The RANGE word (R41): [7:0] start, [15:8] end, [16] ALLOC, [17] HOFF. -/
def rangeWord (e : IdEntry) : Word :=
  (BitVec.ofBool e.handed ++ BitVec.ofBool e.alloc ++ BitVec.ofNat 8 e.last ++ BitVec.ofNat 8 e.first : BitVec 18).setWidth 32

/-- `HostRead(SPACE, i)` for an index within the space (R206), zero-extended (R65). -/
def spaceElement (space : Space) (i : Nat) (s : State) : Word :=
  match space with
  | .fpay => (s.fpayByte i).setWidth 32
  | .rx => (s.rxByte i).setWidth 32
  | .sdu => (s.sduByte i).setWidth 32
  | .o => (s.o[i]?.getD (Config.freeByte s.draws .o i)).setWidth 32
  | .tx => (s.tx[i]?.getD (Config.freeByte s.draws .tx i)).setWidth 32
  | .acc => (s.acc[i]?.getD (Config.freeByte s.draws .acc i)).setWidth 32
  | .bits => (BitVec.ofBool (s.bits[i]?.getD (Config.freeBit s.draws i))).setWidth 32
  | .range => rangeWord (s.entry i)

/-- `HostRead(SPACE, i)` (R206); outside the space an unspecified value (R64). -/
def hostReadSpace (space : Space) (i : Nat) (s : State) : Word :=
  if i < spaceSize s.params space then spaceElement space i s else Config.freeWord s.draws space i

/-- `HostWrite(SPACE, i, v)` (R207): FPAY, RX and SDU store the low 8 bits of `v`; the other spaces are read-only; outside
the space the write is ignored (R64). -/
def hostWriteSpace (space : Space) (i : Nat) (v : Word) (s : State) : State :=
  if i < spaceSize s.params space then
    match space with
    | .fpay => { s with f := { s.f with pay := Memory.write s.f.pay i (v.setWidth 8) } }
    | .rx => { s with rx := Memory.write s.rx i (v.setWidth 8) }
    | .sdu => { s with sdu := Memory.write s.sdu i (v.setWidth 8) }
    | .o | .tx | .acc | .bits | .range => s
  else s

/-- The host's read returns `v`: its one effect is the value returned; the draw counter goes on (log 5, 7). -/
def returnRead (v : Word) (s : State) : State := { s with readData := v, draws := s.draws + 1 }

/-- A command word written to CMD (R205, R8): the command it stands for, or the failure of an illegal one (R96). -/
def runCommand (w : Word) (s : State) : Host.Outcome State Fault Refusal :=
  match decode w with
  | .ok i => exec i s
  | .error _ => .next (illegalCommand s)

/-- One action from outside (R9, R67): a write to CMD is a command, every other access only moves its value. -/
def perform (a : HostAction) (s : State) : Host.Outcome State Fault Refusal :=
  match a with
  | .writeReg r v => if r = .cmd then runCommand v s else .next (hostWriteReg r v s)
  | .readReg r => .next (returnRead (hostReadReg r s) s)
  | .writeSpace space i v => .next (hostWriteSpace space i v s)
  | .readSpace space i => .next (returnRead (hostReadSpace space i s) s)
  | .hardwareReset => .next (finish 0 (resetBlock s))

/-- The action that has the block run the instruction whose bits are `w` (`nbits` of them; every bit above is 0). -/
def commandAction (nbits w : Nat) : HostAction := .writeReg .cmd (BitVec.ofNat 32 (w % 2 ^ nbits))

end Sys2Proof.Machine
end

