-- ==== Sys2Proof/Machine/Step.lean ====
section
/-! DEFINITION. One step: the first of the host's pending actions (R8, R9, R68). -/

namespace Sys2Proof.Machine

/-- One step performs the first pending action on the state without it. With none pending the run has ended (R10). -/
def step (s : State) : Host.Outcome State Fault Refusal :=
  match s.pending with
  | [] => .fault .runEnded
  | a :: rest => perform a { s with pending := rest }

/-- The host's next action writes to CMD the instruction whose bits are `w`. -/
def State.withFetchWord (s : State) (nbits w : Nat) : State := { s with pending := commandAction nbits w :: s.pending }

end Sys2Proof.Machine
end

