-- ==== Sys2Proof/Safety.lean ====
section
/-! DEFINITION. What counts as a safe state: a well-formed frame (R21), the invariants of spec/10_state.md section 9
(R42 to R47), the canonical form of the spaces, and the queue order of R143. The spec says they hold at reset and that
every command preserves them. -/

namespace Sys2Proof.Machine

/-- A well-formed frame (R21). -/
abbrev Frame.wellFormed (p : Params) (g : Frame) : Prop :=
  g.pv = true ∧
  g.hdr.dlen.toNat = g.pay.length ∧
  (g.frag = true ↔ g.hdr.dfc = p.dfcFrag) ∧
  (g.frag = false → g.seg = SegHeader.zero) ∧
  hdrSize + (if g.frag then segSize else 0) + g.pay.length ≤ maxFrame

/-- The frames of packet id `i`: RB[start .. end] (R27, R42). -/
def State.packet (s : State) (i : Nat) : List Frame :=
  (s.rb.drop (s.entry i).first).take ((s.entry i).last - (s.entry i).first + 1)

/-- The packet-id index is sound (R42 to R46). -/
structure IdIndexInv (s : State) : Prop where
  /-- There are 255 packet ids (R26). -/
  size : s.ids.length = idCount
  /-- Ranges lie within RB (R42). -/
  inRange : ∀ i < idCount, s.allocated i = true → (s.entry i).first ≤ (s.entry i).last ∧ (s.entry i).last < s.rb.length
  /-- Ranges of different ids never overlap (R43). -/
  disjoint : ∀ i < idCount, ∀ j < idCount, i ≠ j → s.allocated i = true → s.allocated j = true →
    (s.entry i).last < (s.entry j).first ∨ (s.entry j).last < (s.entry i).first
  /-- Every frame belongs to an allocated id (R44). -/
  covered : ∀ k < s.rb.length, ∃ i < idCount, s.allocated i = true ∧ (s.entry i).first ≤ k ∧ k ≤ (s.entry i).last
  /-- A Free id has range (0, 0) and no handed-off flag (R27, R46, R48). -/
  freeRow : ∀ i < idCount, s.allocated i = false → s.entry i = IdEntry.free
  /-- PKT_COUNT is the number of allocated ids (R45). -/
  counted : s.pktCount = s.ids.countP (·.alloc)
  /-- At most 255 frames (R25, R45). -/
  capacity : s.rb.length ≤ rbCap

/-- The sequences stay within their capacities (R47). -/
structure BuffersInv (s : State) : Prop where
  mq : s.mq.length ≤ mqCap
  tx : s.tx.length ≤ maxFrame
  o : s.o.length ≤ oCap
  acc : s.acc.length ≤ s.params.accCap
  bits : s.bits.length ≤ bitsCap
  bitsWhole : s.bits.length % 8 = 0
  ho : s.ho.length ≤ rbCap

/-- The stored frames are as R47 says: those of RB, and so those of HO, which were in RB, are well-formed with at most 249
payload bytes; those of MQ have their payload present. -/
structure FramesInv (s : State) : Prop where
  rb : ∀ g ∈ s.rb, g.wellFormed s.params ∧ g.pay.length ≤ maxFragPayload
  ho : ∀ g ∈ s.ho, g.wellFormed s.params ∧ g.pay.length ≤ maxFragPayload
  mq : ∀ g ∈ s.mq, g.pv = true ∧ g.pay.length ≤ plenMax

/-- The spaces the host writes are in canonical form (log 11). -/
structure SpacesInv (s : State) : Prop where
  fpay : Memory.wf plenMax s.f.pay
  rx : Memory.wf rxCap s.rx
  sdu : Memory.wf sduCap s.sdu

/-- STATUS is a code the block produces (R215, R225), and the DIAG bits that no produced code owns are 0 (R220). -/
structure StatusInv (s : State) : Prop where
  status : s.status.toNat ≤ 12
  diag : ∀ k : Nat, k = 0 ∨ 13 ≤ k → s.diag.getLsbD k = false

/-- In MQ every command stands ahead of every data frame (R143 (c)). -/
abbrev CommandsAhead (p : Params) (mq : List Frame) : Prop :=
  mq.Pairwise fun g h => frameClass p g = .data → frameClass p h ≠ .command

/-- The invariant of the block: parameters within R6's constraints, and everything above. -/
structure State.Inv (s : State) : Prop where
  params : s.params.wf
  index : IdIndexInv s
  buffers : BuffersInv s
  frames : FramesInv s
  spaces : SpacesInv s
  status : StatusInv s
  order : CommandsAhead s.params s.mq

/-- A step is safe when it answers a next state; the machine never stops on a command or a host access (R224). -/
def safeStep (s : State) : Prop := ∃ t, step s = .next t

end Sys2Proof.Machine
end

