-- ==== Sys2Proof/Certificates/Slice0/Obligations.lean ====
section
/-! DEFINITION. The statements for the provers. They are written in the spec's own numbers and shapes (status codes, bit
positions, Nat arithmetic), not through the operations of Machine/Ops.lean. A statement about a state holds for every
setting of the open parameters that state carries (R6) and for every value of the free values (log 5). -/

open Sys2Proof Sys2Proof.Machine

namespace Sys2Proof.Claim

/-- `done v` as R219 has it: STATUS 0, RESULT `v`, DIAG as before. The draw counter is the model's own (log 5). -/
def done (v : Nat) (s : State) : State :=
  { s with status := 0#8, result := BitVec.ofNat 16 v, draws := s.draws + 1 }

/-- `fail` with code number `code` and result `v` as R219 has it. -/
def failed (code v : Nat) (s : State) : State :=
  { s with
    status := BitVec.ofNat 8 code
    result := BitVec.ofNat 16 v
    diag := s.diag ||| (1#16 <<< code)
    draws := s.draws + 1 }

/-- The failure codes of R217, by command. -/
def failureCodes : Instr → List Nat
  | .nop | .srst | .dclr | .hpack | .valid | .nmore | .tobits | .accclr => []
  | .hunpk => [9]
  | .ser => [2]
  | .seri _ => [2, 3]
  | .deser => [9]
  | .enq => [2, 5]
  | .drain => [4, 2, 3]
  | .segm _ _ _ _ => [6, 7]
  | .rel _ => [8]
  | .hoff _ => [8]
  | .fpend => [11]
  | .ldf _ _ => [12]
  | .accum => [2, 10]

/-- The reserved bits of a command word, by opcode (R93, R95); `none` for an opcode that is not assigned. -/
def reservedBits (op : Nat) : Option Word :=
  if op ∈ [0x00, 0x01, 0x02, 0x10, 0x11, 0x12, 0x14, 0x15, 0x20, 0x21, 0x33, 0x40, 0x41, 0x42, 0x43] then
    some 0x00FFFFFF
  else if op = 0x13 then some 0x00FF0000
  else if op = 0x30 then some 0x00E0FC00
  else if op = 0x31 ∨ op = 0x32 then some 0x0000FFFF
  else if op = 0x34 then some 0x00FCFF00
  else none

/-- R96's first sentence: `op` is not one of the twenty, or a reserved bit is 1, or the word is LDF with src = 3. -/
def illegalWord (w : Word) : Prop :=
  reservedBits (w.toNat / 2 ^ 24) = none ∨
  (∃ m, reservedBits (w.toNat / 2 ^ 24) = some m ∧ ∃ k, m.getLsbD k = true ∧ w.getLsbD k = true) ∨
  (w.toNat / 2 ^ 24 = 0x34 ∧ w.getLsbD 16 = true ∧ w.getLsbD 17 = true)

/-- What one action makes of a state (R68: the actions' transitions). -/
def transition (s : State) (a : HostAction) : State :=
  match perform a s with
  | .next t => t
  | _ => s

/-- The state without the list of actions still to come. -/
def apart (s : State) : State := { s with pending := [] }

/-- The transmission and output buffers a failing command may empty (R219). -/
def exceptEnding (s t : State) : State :=
  { t with status := s.status, result := s.result, diag := s.diag, draws := s.draws, o := s.o, tx := s.tx, ho := s.ho }

/-- Whether a failure of the command answers the sentinel 255 (R219: SEGM and FPEND). -/
def failsWithSentinel : Instr → Bool
  | .segm _ _ _ _ | .fpend => true
  | .nop | .srst | .dclr | .hpack | .hunpk | .ser | .seri _ | .deser | .valid | .enq | .drain | .rel _ | .hoff _
  | .ldf _ _ | .nmore | .accum | .tobits | .accclr => false

/-- Whether a failure of the command empties O (R219: SER and SERI). -/
def emptiesO : Instr → Bool
  | .ser | .seri _ => true
  | .nop | .srst | .dclr | .hpack | .hunpk | .deser | .valid | .enq | .drain | .segm _ _ _ _ | .rel _ | .hoff _
  | .fpend | .ldf _ _ | .nmore | .accum | .tobits | .accclr => false

/-- Whether a failure of the command empties HO (R219: HOFF). -/
def emptiesHo : Instr → Bool
  | .hoff _ => true
  | .nop | .srst | .dclr | .hpack | .hunpk | .ser | .seri _ | .deser | .valid | .enq | .drain | .segm _ _ _ _ | .rel _
  | .fpend | .ldf _ _ | .nmore | .accum | .tobits | .accclr => false

/-- R157's n(L). -/
def fragments (L : Nat) : Nat := if 249 < L then (L + 248) / 249 else 1

/-- R161's flag for fragment `k` of `n`. -/
def flagOf (p : Params) (k n : Nat) : BitVec 2 :=
  if n = 1 then p.sfNone else if k = 0 then p.sfFirst else if k = n - 1 then p.sfLast else p.sfMiddle

/-- The frame `k` that R160 has SEGM build. -/
def segmentFrame (port : BitVec 3) (cls sd : BitVec 1) (scid : BitVec 10) (s : State) (k : Nat) : Frame :=
  let L := s.sduLen.toNat
  let len := min 249 (L - 249 * k)
  { pv := true
    frag := decide (249 < L)
    hdr := { ver := s.params.supportedVersion, qos := s.cfg.extractLsb' 0 1, pduId := cls,
             dfc := if 249 < L then s.params.dfcFrag else s.params.dfcUnseg,
             scId := scid, pcId := s.cfg.extractLsb' 1 1, port := port, sdId := sd,
             dlen := BitVec.ofNat 11 len, fsn := BitVec.ofNat 8 k }
    seg := if 249 < L then { flag := flagOf s.params k (fragments L), ppid := s.ppid } else { flag := 0, ppid := 0 }
    pay := (List.range len).map fun j => s.sduByte (249 * k + j) }

/-- The state SEGM leaves when it succeeds with id `id` and the frames `new` (R160). -/
def segmented (id : Nat) (new : List Frame) (s : State) : State :=
  done id { s with
    rb := s.rb ++ new
    ids := s.ids.set id { alloc := true, handed := false, first := s.rb.length, last := s.rb.length + new.length - 1 }
    pktCount := s.pktCount + 1
    ppid := if 249 < s.sduLen.toNat then BitVec.ofNat 6 ((s.ppid.toNat + 1) % 64) else s.ppid }

/-- F after `F <- g` (R23): the scalar fields, F.plen, the payload in FPAY and zeros beyond it. -/
def holdsFrame (r : FrameReg) (g : Frame) : Prop :=
  r.pv = g.pv ∧ r.frag = g.frag ∧ r.hdr = g.hdr ∧ r.seg = g.seg ∧ r.plen.toNat = g.pay.length % 256 ∧
  (∀ i < 255, Memory.read r.pay i = some (g.pay.getD i 0)) ∧ ∀ i, 255 ≤ i → Memory.read r.pay i = none

/-- The register masks of R41: the bits a host write stores; `none` for a register the host cannot write. -/
def writeMask : Reg → Option Word
  | .cfg => some 0x3
  | .rxLen => some 0xFF
  | .sduLen => some 0xFFFF
  | .fHdra => some 0xFFFFFFFF
  | .fFsn => some 0xFF
  | .fCtl => some 0x00FFFF03
  | _ => none

end Sys2Proof.Claim

open Sys2Proof.Claim

-- ## Commands and words (spec/30_encoding.md part B)

/-- Every legal command comes back from its own word, with every operand at every value (R92, R93, R95, R101). -/
def Obligations.DecodeOfEncodeIsTheCommand : Prop :=
  ∀ i : Instr, i.wellFormed = true → decode (encode i) = .ok i

/-- A word that decodes is the word of the command it decodes to: no two words mean one command, and only legal commands
come out of the decoder (R95, R96). -/
def Obligations.EncodeOfDecodeIsTheWord : Prop :=
  ∀ (w : Word) (i : Instr), decode w = .ok i → encode i = w ∧ i.wellFormed = true

/-- R96: which words are illegal, and what writing one to CMD does. -/
def Obligations.IllegalWordsFailWithoutEffect : Prop :=
  (∀ w : Word, illegalWord w ↔ ∀ i, decode w ≠ .ok i) ∧
  ∀ (w : Word) (s : State) (rest : List HostAction), s.pending = .writeReg .cmd w :: rest → illegalWord w →
    step s = .next (failed 1 0 { s with pending := rest })

/-- Words written out from R92, R93 and R95 decode to the commands they stand for. -/
def Obligations.WrittenOutWordsDecode : Prop :=
  decode 0x02000000 = .ok .dclr ∧ decode 0x130000FF = .ok (.seri 255) ∧ decode 0x20000000 = .ok .enq ∧
  decode 0x300502A5 = .ok (.segm 5 0 0 0x2A5) ∧ decode 0x301F03FF = .ok (.segm 7 1 1 0x3FF) ∧
  decode 0x30080000 = .ok (.segm 0 1 0 0) ∧ decode 0x31640000 = .ok (.rel 100) ∧
  decode 0x34020003 = .ok (.ldf 2 3) ∧ decode 0x43000000 = .ok .accclr

/-- A step on a CMD write whose word decodes runs that command on the state without the action (R205, R8). -/
def Obligations.StepRunsTheDecodedCommand : Prop :=
  ∀ (w : Word) (i : Instr) (s : State) (rest : List HostAction),
    s.pending = .writeReg .cmd w :: rest → decode w = .ok i → step s = exec i { s with pending := rest }

-- ## The whole machine (spec/00_scope.md section 6, spec/20_memory.md section 4, spec/60_exceptions.md)

/-- R68: the state after a run is the fold of the actions' transitions in issue order. The actions still to come influence
none of them, every action completes, and none of the host's actions is lost or added. -/
def Obligations.RunIsTheFoldOfTheActions : Prop :=
  ∀ (actions : List HostAction) (s t : State), s.pending = actions → t = actions.foldl transition (apart s) →
    core.run actions.length s = .next t

/-- No command and no host access faults or is refused: each answers a next state, whatever the state (R8, R224). -/
def Obligations.EveryActionCompletes : Prop :=
  ∀ (a : HostAction) (s : State), ∃ t, perform a s = .next t ∧ t.pending = s.pending

/-- R219: a failing command writes STATUS, its DIAG bit and RESULT (0, or 255 for SEGM and FPEND), empties O (SER, SERI),
TX (DRAIN) or HO (HOFF) where its rule says so, and changes nothing else; a succeeding one leaves DIAG (but DCLR and SRST,
whose effect that is). -/
def Obligations.FailedCommandChangesNothingElse : Prop :=
  ∀ (i : Instr) (s t : State), exec i s = .next t →
    (t.status ≠ 0 →
      exceptEnding s t = s ∧
      t.diag = s.diag ||| (1#16 <<< t.status.toNat) ∧
      t.result = (if failsWithSentinel i = true then 255 else 0) ∧
      t.o = (if emptiesO i = true then [] else s.o) ∧
      t.tx = (if i = .drain then [] else s.tx) ∧
      t.ho = (if emptiesHo i = true then [] else s.ho)) ∧
    (t.status = 0 → i ≠ .dclr → i ≠ .srst → t.diag = s.diag)

/-- R217: the status codes each legal command can end with. -/
def Obligations.CommandsEndWithTheirCodes : Prop :=
  ∀ (i : Instr) (s t : State), i.wellFormed = true → exec i s = .next t →
    t.status.toNat ∈ 0 :: failureCodes i

/-- R220: a command that fails with code k sets DIAG's bit k; over any action, DIAG gains no other bit, and loses bits only by
DCLR, SRST or reset; bits 0, 14 and 15 stay 0. -/
def Obligations.DiagBitsAreSticky : Prop :=
  ∀ (a : HostAction) (s t : State), perform a s = .next t →
    (∀ w, a = .writeReg .cmd w → t.status ≠ 0 → t.diag.getLsbD t.status.toNat = true) ∧
    (∀ k, t.diag.getLsbD k = true → s.diag.getLsbD k = true ∨ ∃ w, a = .writeReg .cmd w ∧ k = t.status.toNat ∧ k ≠ 0) ∧
    (∀ k, s.diag.getLsbD k = true → t.diag.getLsbD k = true ∨ a = .hardwareReset ∨
      ∃ w, a = .writeReg .cmd w ∧ (decode w = .ok .dclr ∨ decode w = .ok .srst)) ∧
    ∀ k, k = 0 ∨ 14 ≤ k → s.diag.getLsbD k = false → t.diag.getLsbD k = false

/-- Each piece of state has the writers spec/10_state.md and R60 name, and no command but SRST besides them. -/
def Obligations.StateHasOnlyItsNamedWriters : Prop :=
  ∀ (i : Instr) (s t : State), exec i s = .next t → i ≠ .srst →
    (i ≠ .deser → i ≠ .hunpk → (∀ src idx, i ≠ .ldf src idx) → t.f = s.f) ∧
    (i = .hunpk → { t.f with hdr := s.f.hdr } = s.f) ∧
    t.rx = s.rx ∧ t.rxLen = s.rxLen ∧ t.sdu = s.sdu ∧ t.sduLen = s.sduLen ∧ t.cfg = s.cfg ∧
    (i ≠ .hpack → i ≠ .ser → (∀ cap, i ≠ .seri cap) → t.o = s.o) ∧
    (i ≠ .drain → t.tx = s.tx) ∧
    (i ≠ .enq → i ≠ .drain → t.mq = s.mq) ∧
    (i ≠ .accum → i ≠ .tobits → i ≠ .accclr → t.acc = s.acc) ∧
    (i ≠ .tobits → t.bits = s.bits) ∧
    ((∀ id, i ≠ .hoff id) → t.ho = s.ho) ∧
    ((∀ p c d x, i ≠ .segm p c d x) → t.ppid = s.ppid ∧
      ((∀ id, i ≠ .rel id) → t.rb = s.rb ∧ t.pktCount = s.pktCount ∧ ((∀ id, i ≠ .hoff id) → t.ids = s.ids)))

/-- R244: the open parameters never change, by any step. -/
def Obligations.ParametersNeverChange : Prop :=
  ∀ s t : State, step s = .next t → t.params = s.params

/-- The invariants of R42 to R47, with R27, R143 (c), R215, R220 and the canonical form of the spaces, are kept by every
step, from every state that meets them. -/
def Obligations.EveryStepKeepsTheInvariant : Prop :=
  ∀ s t : State, s.Inv → step s = .next t → t.Inv

/-- The invariants hold in the reset state, for every admissible setting of the open parameters (R240). -/
def Obligations.ResetMeetsTheInvariant : Prop :=
  (∀ p : Params, p.wf → (State.resetWith p).Inv) ∧ State.reset.Inv

/-- R42 to R46 alone, over any command: the part of the invariant that REL's compaction must restore. -/
def Obligations.CommandsKeepTheIdIndex : Prop :=
  ∀ (i : Instr) (s t : State), IdIndexInv s → exec i s = .next t → IdIndexInv t

-- ## Reset and system commands (spec/70_reset_and_hazards.md, spec/44_system.md)

/-- R240: the reset values the spec gives, for every setting of the open parameters; no byte of FPAY, RX or SDU has been
written. -/
def Obligations.ResetStateIsAsTheSpecSays : Prop :=
  State.reset = State.resetWith Params.default ∧
  ∀ p : Params, let s := State.resetWith p
    s.status = 0 ∧ s.result = 0 ∧ s.diag = 0 ∧ s.cfg = 0 ∧ s.ppid = 0 ∧ s.rb = [] ∧ s.pktCount = 0 ∧
    (∀ i < 255, (s.entry i).alloc = false ∧ (s.entry i).handed = false ∧ (s.entry i).first = 0 ∧ (s.entry i).last = 0) ∧
    s.mq = [] ∧ s.tx = [] ∧ s.o = [] ∧ s.ho = [] ∧ s.acc = [] ∧ s.bits = [] ∧ s.rxLen = 0 ∧ s.sduLen = 0 ∧
    hostReadReg .fHdra s = 0 ∧ hostReadReg .fFsn s = 0 ∧ hostReadReg .fCtl s = 0 ∧
    (∀ i, Memory.read s.f.pay i = none ∧ Memory.read s.rx i = none ∧ Memory.read s.sdu i = none) ∧ s.params = p

/-- R200 and R202: NOP sets STATUS and RESULT to 0 and changes nothing else; DCLR clears DIAG besides. -/
def Obligations.NopAndDclrTouchOnlyTheStatusRegisters : Prop :=
  encode .nop = 0x00000000 ∧ encode .dclr = 0x02000000 ∧
  ∀ s, exec .nop s = .next (done 0 s) ∧ exec .dclr s = .next (done 0 { s with diag := 0 })

/-- SRST and the hardware reset both leave exactly the state of R240; the open parameters, the host's actions and the value
it last read are no state of the block (R201, R241; log 8). -/
def Obligations.BothResetsGiveTheResetState : Prop :=
  ∀ s, let fresh := State.resetWith s.params
    exec .srst s =
      .next { fresh with draws := s.draws + 1, readData := s.readData, pending := s.pending } ∧
    perform .hardwareReset s = exec .srst s

-- ## Frame Codec (spec/40_frame_codec.md)

/-- R110: the five header bytes, in shifts and sums, all eleven bits of dlen included. -/
def Obligations.PackedHeaderBytes : Prop :=
  ∀ h : Header, (packHdr h).map BitVec.toNat =
    [h.ver.toNat * 2 ^ 6 + h.qos.toNat * 2 ^ 5 + h.pduId.toNat * 2 ^ 4 + h.dfc.toNat * 2 ^ 2 + h.scId.toNat / 2 ^ 8,
     h.scId.toNat % 2 ^ 8,
     h.pcId.toNat * 2 ^ 7 + h.port.toNat * 2 ^ 4 + h.sdId.toNat * 2 ^ 3 + h.dlen.toNat / 2 ^ 8,
     h.dlen.toNat % 2 ^ 8,
     h.fsn.toNat]

/-- R119: packing and unpacking the header are inverse, both ways. -/
def Obligations.HeaderPackingIsABijection : Prop :=
  (∀ h : Header, unpackHdr (packHdr h) = h) ∧
  ∀ b : List Byte, b.length = 5 → packHdr (unpackHdr b) = b

/-- R112 and R113: the segmentation byte, and that its two functions are inverse. -/
def Obligations.SegmentationBytePacking : Prop :=
  (∀ g : SegHeader, (packSeg g).toNat = g.flag.toNat * 2 ^ 6 + g.ppid.toNat ∧ unpackSeg (packSeg g) = g) ∧
  ∀ x : Byte, (unpackSeg x).flag.toNat = x.toNat / 2 ^ 6 ∧ (unpackSeg x).ppid.toNat = x.toNat % 2 ^ 6 ∧
    packSeg (unpackSeg x) = x

/-- R114: the serialized form by the variant tag and the payload's own length, between 5 and 261 bytes. -/
def Obligations.SerializedFormAndLength : Prop :=
  ∀ g : Frame, g.pay.length ≤ 255 →
    serBytes g = packHdr g.hdr ++ (if g.frag = true then [packSeg g.seg] else []) ++ g.pay ∧
    (serBytes g).length = serLen g ∧ serLen g = 5 + (if g.frag = true then 1 else 0) + g.pay.length ∧
    5 ≤ serLen g ∧ serLen g ≤ 261

/-- R120: `parse`, case by case. -/
def Obligations.ParseFollowsTheHeader : Prop :=
  ∀ (p : Params) (b : List Byte),
    let fr := decide ((unpackHdr b).dfc = p.dfcFrag)
    let off := if fr = true then 6 else 5
    let pl := (b.getD 3 0).toNat
    (b.length < 5 → parse p b = none) ∧
    (5 ≤ b.length → b.length < off + pl → parse p b = none) ∧
    (5 ≤ b.length → off + pl ≤ b.length →
      ∃ g, parse p b = some (g, off + pl) ∧ g.pv = true ∧ g.frag = fr ∧ g.hdr = unpackHdr b ∧
        g.seg = (if fr = true then unpackSeg (b.getD 5 0) else { flag := 0, ppid := 0 }) ∧
        g.pay.length = pl ∧ ∀ j < pl, g.pay.getD j 0 = b.getD (off + j) 0)

/-- R123: every well-formed frame comes back from its serialized form; whatever parses serializes to the bytes it was parsed
from; and as commands, SER, copying O and O_LEN to RX and RX_LEN, DESER leaves the frame as it was. -/
def Obligations.SerializeParseRoundTrip : Prop :=
  (∀ (p : Params) (g : Frame), g.wellFormed p → parse p (serBytes g) = some (g, serLen g)) ∧
  (∀ (p : Params) (b : List Byte) (g : Frame) (k : Nat), parse p b = some (g, k) →
    serBytes g = b.take k ∧ k ≤ b.length) ∧
  ∀ s t u v : State, (frameOfF s).wellFormed s.params → exec .ser s = .next t →
    u = { t with rx := t.o.zipIdx.map (fun c => (c.2, c.1)), rxLen := BitVec.ofNat 8 t.o.length } →
    exec .deser u = .next v → v.status = 0 ∧ frameOfF v = frameOfF s

/-- R115: HPACK writes the packed header of F to O, whatever the rest of F holds. -/
def Obligations.HpackWritesTheHeader : Prop :=
  encode .hpack = 0x10000000 ∧
  ∀ s, exec .hpack s = .next (done 5 { s with o := packHdr s.f.hdr })

/-- R116: HUNPK writes the ten header fields of F from RX[0..4], or fails when RX_LEN is below 5. -/
def Obligations.HunpkReadsTheHeader : Prop :=
  encode .hunpk = 0x11000000 ∧
  ∀ s : State,
    (5 ≤ s.rxLen.toNat →
      exec .hunpk s = .next (done 5 { s with f := { s.f with
        hdr := unpackHdr [s.rxByte 0, s.rxByte 1, s.rxByte 2, s.rxByte 3, s.rxByte 4] } })) ∧
    (s.rxLen.toNat < 5 → exec .hunpk s = .next (failed 9 0 s))

/-- R117: SER serializes a present frame to O, and fails with an empty O on an absent one. -/
def Obligations.SerSerializesF : Prop :=
  encode .ser = 0x12000000 ∧
  ∀ s : State,
    (s.f.pv = true → exec .ser s = .next (done (serLen (frameOfF s)) { s with o := serBytes (frameOfF s) })) ∧
    (s.f.pv = false → exec .ser s = .next (failed 2 0 { s with o := [] }))

/-- R118: SERI does the same within a capacity, absence tested first, the capacity strictly. -/
def Obligations.SeriRespectsTheCapacity : Prop :=
  ∀ (cap : BitVec 16) (s : State),
    encode (.seri cap) = 0x13000000 ||| cap.setWidth 32 ∧
    (s.f.pv = true → serLen (frameOfF s) ≤ cap.toNat →
      exec (.seri cap) s = .next (done (serLen (frameOfF s)) { s with o := serBytes (frameOfF s) })) ∧
    (s.f.pv = false → exec (.seri cap) s = .next (failed 2 0 { s with o := [] })) ∧
    (s.f.pv = true → cap.toNat < serLen (frameOfF s) →
      exec (.seri cap) s = .next (failed 3 0 { s with o := [] }))

/-- R121, with the write of R23: DESER loads the parsed frame into F, zero-filling FPAY, and changes nothing else; a short input fails and
leaves F. -/
def Obligations.DeserLoadsTheParsedFrame : Prop :=
  encode .deser = 0x14000000 ∧
  ∀ s : State,
    let b := (List.range s.rxLen.toNat).map s.rxByte
    (∀ g k, parse s.params b = some (g, k) →
      ∃ r, exec .deser s = .next (done k { s with f := r }) ∧ holdsFrame r g ∧ g.pay.length ≤ 255 ∧
        k = 5 + (if g.frag = true then 1 else 0) + g.pay.length) ∧
    (parse s.params b = none → exec .deser s = .next (failed 9 0 s))

/-- R122: VALID answers whether the payload is present and the version is the supported one. -/
def Obligations.ValidChecksPresenceAndVersion : Prop :=
  encode .valid = 0x15000000 ∧
  ∀ s : State,
    exec .valid s = .next (done (if s.f.pv = true ∧ s.f.hdr.ver = s.params.supportedVersion then 1 else 0) s)

-- ## Transmit Multiplexer (spec/41_multiplexer.md)

/-- R140 and R141: the class of a frame and the insertion position of an offered one. -/
def Obligations.InsertionPositionFollowsTheClass : Prop :=
  ∀ (p : Params) (g : Frame) (mq : List Frame),
    (frameClass p g = .fragment ↔ g.frag = true) ∧
    (frameClass p g = .command ↔ g.frag = false ∧ g.hdr.pduId = p.pduCmd) ∧
    (frameClass p g = .data ↔ g.frag = false ∧ g.hdr.pduId ≠ p.pduCmd) ∧
    (frameClass p g ≠ .command → insPos p g mq = mq.length) ∧
    (frameClass p g = .command →
      insPos p g mq ≤ mq.length ∧
      (∀ k h, mq[k]? = some h → k < insPos p g mq → frameClass p h ≠ .data) ∧
      ∀ h, mq[insPos p g mq]? = some h → frameClass p h = .data)

/-- R142: ENQ inserts a copy of F at that position, absence tested before fullness; F and everything else stay. -/
def Obligations.EnqInsertsAtItsPosition : Prop :=
  encode .enq = 0x20000000 ∧
  ∀ s : State,
    let k := insPos s.params (frameOfF s) s.mq
    (s.f.pv = true → s.mq.length < 255 →
      exec .enq s = .next (done k { s with mq := s.mq.take k ++ [frameOfF s] ++ s.mq.drop k })) ∧
    (s.f.pv = false → exec .enq s = .next (failed 2 0 s)) ∧
    (s.f.pv = true → s.mq.length = 255 → exec .enq s = .next (failed 5 0 s))

/-- R144: DRAIN serializes the head to TX and removes it; an empty queue, an absent head and an oversize head fail, in that
order, with TX empty and the queue as it was. -/
def Obligations.DrainSendsTheHead : Prop :=
  encode .drain = 0x21000000 ∧
  ∀ s : State,
    (s.mq = [] → exec .drain s = .next (failed 4 0 { s with tx := [] })) ∧
    ∀ h rest, s.mq = h :: rest →
      (h.pv = false → exec .drain s = .next (failed 2 0 { s with tx := [] })) ∧
      (h.pv = true → 255 < serLen h → exec .drain s = .next (failed 3 0 { s with tx := [] })) ∧
      (h.pv = true → serLen h ≤ 255 →
        exec .drain s = .next (done (serLen h) { s with tx := serBytes h, mq := rest }))

/-- Head-of-line blocking (R145): a frame is oversize exactly when its payload exceeds 250 bytes, 249 fragmented; an oversize
head fails every DRAIN in a row, and no command but SRST removes a queued frame that DRAIN does not send. -/
def Obligations.OversizeHeadBlocksTheQueue : Prop :=
  (∀ g : Frame, 255 < serLen g ↔ (g.frag = false ∧ 250 < g.pay.length) ∨ (g.frag = true ∧ 249 < g.pay.length)) ∧
  (∀ (s t : State) (h : Frame), s.mq.head? = some h → h.pv = true → 255 < serLen h → exec .drain s = .next t →
    t.mq = s.mq ∧ t.status = 3 ∧ t.tx = [] ∧ ∃ u, exec .drain t = .next u ∧ u.status = 3 ∧ u.mq = s.mq) ∧
  ∀ (i : Instr) (s t : State), exec i s = .next t → i ≠ .srst → i ≠ .drain → s.mq.Sublist t.mq

/-- R143: the queue order. Commands stay ahead of data, over every command; in a queue where they are, ENQ keeps the order
within a class, and among all frames that are not commands, and adds behind; DRAIN takes from the front. -/
def Obligations.QueueKeepsTheOrderWithinAClass : Prop :=
  ∀ (s t : State),
    (CommandsAhead s.params s.mq → exec .enq s = .next t → t.status = 0 →
      (∀ c, t.mq.filter (fun g => decide (frameClass s.params g = c)) =
        s.mq.filter (fun g => decide (frameClass s.params g = c)) ++
          (if frameClass s.params (frameOfF s) = c then [frameOfF s] else [])) ∧
      t.mq.filter (fun g => decide (frameClass s.params g ≠ .command)) =
        s.mq.filter (fun g => decide (frameClass s.params g ≠ .command)) ++
          (if frameClass s.params (frameOfF s) = .command then [] else [frameOfF s])) ∧
    (exec .drain s = .next t → t.status = 0 → ∃ h, s.mq = h :: t.mq) ∧
    ∀ i, exec i s = .next t → CommandsAhead s.params s.mq → CommandsAhead s.params t.mq

-- ## Segmentation and Reassembly Buffer (spec/42_segmentation_buffer.md)

/-- R156: the least free packet id, or 255 when every id is allocated. -/
def Obligations.FreeIdIsTheLeastFree : Prop :=
  ∀ s : State,
    ((∀ i < 255, s.allocated i = true) → s.freeId = 255) ∧
    ∀ i < 255, s.allocated i = false → (∀ j < i, s.allocated j = true) → s.freeId = i

/-- R157: the fragment count, with the sizes: at least two fragments above 249 bytes, all but the last of 249 bytes, the
last of L mod 249 (or 249), the sizes adding to L; one frame of L bytes otherwise. -/
def Obligations.FragmentCountAndSizes : Prop :=
  ∀ L : Nat,
    (L ≤ 249 → fragCount L = 1 ∧ fragmented L = false ∧ fragLen L 0 = L) ∧
    (249 < L →
      fragmented L = true ∧ 2 ≤ fragCount L ∧ 249 * (fragCount L - 1) < L ∧ L ≤ 249 * fragCount L ∧
      (∀ k, k + 1 < fragCount L → fragLen L k = 249) ∧
      fragLen L (fragCount L - 1) = (if L % 249 = 0 then 249 else L % 249)) ∧
    ((List.range (fragCount L)).map (fragLen L)).sum = L

/-- R161: the SegFlag sequence; SEGM never takes the SF_NONE arm. -/
def Obligations.SegFlagSequence : Prop :=
  (∀ (p : Params) (k n : Nat),
    segFlag p k 1 = p.sfNone ∧
    (1 < n → segFlag p 0 n = p.sfFirst ∧ segFlag p (n - 1) n = p.sfLast ∧
      (k ≠ 0 → k ≠ n - 1 → segFlag p k n = p.sfMiddle))) ∧
  ∀ L, fragmented L = true → fragCount L ≠ 1

/-- R160: SEGM appends the frames it builds, allocates the least free id for them, and counts the packet; PPID advances
modulo 64 when it fragments (R162). Without a free id, and then without room, it fails with RESULT 255. -/
def Obligations.SegmAppendsTheFragments : Prop :=
  ∀ (port : BitVec 3) (cls sd : BitVec 1) (scid : BitVec 10) (s : State),
    let n := fragments s.sduLen.toNat
    encode (.segm port cls sd scid) = 0x30000000 ||| (sd.setWidth 32 <<< 20) ||| (cls.setWidth 32 <<< 19) |||
      (port.setWidth 32 <<< 16) ||| scid.setWidth 32 ∧
    (s.freeId ≠ 255 → s.rb.length + n ≤ 255 →
      ∃ new, exec (.segm port cls sd scid) s = .next (segmented s.freeId new s) ∧ new.length = n ∧
        ∀ k < n, new[k]? = some (segmentFrame port cls sd scid s k)) ∧
    (s.freeId = 255 → exec (.segm port cls sd scid) s = .next (failed 6 255 s)) ∧
    (s.freeId ≠ 255 → 255 < s.rb.length + n → exec (.segm port cls sd scid) s = .next (failed 7 255 s))

/-- R164: SEGM either appends all of its frames and records the id for them, or changes nothing but STATUS, RESULT and
DIAG. -/
def Obligations.SegmIsAllOrNothing : Prop :=
  ∀ (port : BitVec 3) (cls sd : BitVec 1) (scid : BitVec 10) (s t : State), s.ids.length = 255 →
    exec (.segm port cls sd scid) s = .next t →
    (t.status = 0 ∧ t.rb.take s.rb.length = s.rb ∧ t.rb.length = s.rb.length + fragments s.sduLen.toNat ∧
      s.allocated t.result.toNat = false ∧
      t.entry t.result.toNat = { alloc := true, handed := false, first := s.rb.length, last := t.rb.length - 1 }) ∨
    (t.status ≠ 0 ∧ { t with status := s.status, result := s.result, diag := s.diag, draws := s.draws } = s)

/-- R158: the payloads of the frames SEGM appends, concatenated in order, are SDU[0 .. SDU_LEN-1]. -/
def Obligations.FragmentPayloadsMakeTheSdu : Prop :=
  ∀ (port : BitVec 3) (cls sd : BitVec 1) (scid : BitVec 10) (s t : State),
    exec (.segm port cls sd scid) s = .next t → t.status = 0 →
    ((t.rb.drop s.rb.length).map (·.pay)).flatten = (List.range s.sduLen.toNat).map s.sduByte

/-- R163: every frame SEGM appends is well-formed and fits the link, so DRAIN can always send it; its header comes from the
operands, CFG, the supported version, the form, its own payload size and its index. -/
def Obligations.BuiltFramesAreWellFormed : Prop :=
  ∀ (port : BitVec 3) (cls sd : BitVec 1) (scid : BitVec 10) (s t : State), s.params.wf →
    exec (.segm port cls sd scid) s = .next t → t.status = 0 →
    ∀ k g, (t.rb.drop s.rb.length)[k]? = some g →
      g.wellFormed s.params ∧ g.pay.length ≤ 249 ∧ serLen g ≤ 255 ∧ g.hdr.fsn.toNat = k ∧
      g.hdr.port = port ∧ g.hdr.pduId = cls ∧ g.hdr.sdId = sd ∧ g.hdr.scId = scid ∧
      g.hdr.ver = s.params.supportedVersion ∧ g.hdr.qos = s.cfg.extractLsb' 0 1 ∧ g.hdr.pcId = s.cfg.extractLsb' 1 1 ∧
      g.hdr.dfc = (if g.frag = true then s.params.dfcFrag else s.params.dfcUnseg)

/-- R162: over any action, PPID moves only by a successful fragmenting SEGM (by one, modulo 64, after its value has gone into
all the fragments) and by reset. -/
def Obligations.PpidAdvancesOnlyByFragmentingSegm : Prop :=
  ∀ (a : HostAction) (s t : State), perform a s = .next t → t.ppid ≠ s.ppid →
    (t.ppid = 0 ∧ (a = .hardwareReset ∨ ∃ w, a = .writeReg .cmd w ∧ decode w = .ok .srst)) ∨
    ∃ w port cls sd scid, a = .writeReg .cmd w ∧ decode w = .ok (.segm port cls sd scid) ∧ t.status = 0 ∧
      249 < s.sduLen.toNat ∧ t.ppid.toNat = (s.ppid.toNat + 1) % 64 ∧
      ∀ g ∈ t.rb.drop s.rb.length, g.seg.ppid = s.ppid

/-- From a state whose ids below `k` alone are allocated, one per frame, SEGM of a short SDU gives out id `k` and leaves such
a state for `k + 1`; at 255 it fails with ST_NO_FREE_ID and 255 (R170). -/
def Obligations.IdsAreGivenOutInOrder : Prop :=
  ∀ (port : BitVec 3) (cls sd : BitVec 1) (scid : BitVec 10) (s : State) (k : Nat),
    s.ids.length = 255 → (∀ i < 255, s.allocated i = decide (i < k)) → s.rb.length = k → k ≤ 255 →
    s.sduLen.toNat ≤ 249 →
    ∃ t, exec (.segm port cls sd scid) s = .next t ∧
      (k < 255 → t.status = 0 ∧ t.result.toNat = k ∧ t.ids.length = 255 ∧ t.rb.length = k + 1 ∧
        ∀ i < 255, t.allocated i = decide (i < k + 1)) ∧
      (k = 255 → t = failed 6 255 s)

/-- R165: REL of an allocated id removes its run, frees its row and moves every range that starts beyond the run's end down
by its length; every other row stays. REL of any other id fails. -/
def Obligations.RelRemovesTheRunAndRebases : Prop :=
  ∀ (id : BitVec 8) (s : State),
    encode (.rel id) = 0x31000000 ||| (id.setWidth 32 <<< 16) ∧
    (id.toNat < 255 → s.allocated id.toNat = true →
      let a := (s.entry id.toNat).first
      let e := (s.entry id.toNat).last
      let c := e - a + 1
      ∃ rows, exec (.rel id) s = .next (done c { s with
          rb := s.rb.take a ++ s.rb.drop (e + 1), ids := rows, pktCount := s.pktCount - 1 }) ∧
        rows.length = s.ids.length ∧
        ∀ j, rows.getD j IdEntry.free =
          if j = id.toNat then IdEntry.free
          else if s.allocated j = true ∧ e < (s.entry j).first then
            { s.entry j with first := (s.entry j).first - c, last := (s.entry j).last - c }
          else s.entry j) ∧
    (254 < id.toNat ∨ s.allocated id.toNat = false → exec (.rel id) s = .next (failed 8 0 s))

/-- REL under the id-index invariant: RB shrinks by the run's length, every other allocated id keeps exactly its frames and
stays allocated, and the released id is Free (R165, R42). -/
def Obligations.RelKeepsEveryOtherPacket : Prop :=
  ∀ (id : BitVec 8) (s t : State), IdIndexInv s → exec (.rel id) s = .next t → t.status = 0 →
    t.rb.length + (s.packet id.toNat).length = s.rb.length ∧ t.result.toNat = (s.packet id.toNat).length ∧
    t.pktCount + 1 = s.pktCount ∧ t.allocated id.toNat = false ∧
    ∀ j < 255, j ≠ id.toNat → s.allocated j = true → t.allocated j = true ∧ t.packet j = s.packet j

/-- R166: an invalid id is 255 or one whose bitmap bit is clear; REL of it fails and changes nothing else, PKT_COUNT
included. So a second REL of the same id fails. -/
def Obligations.InvalidIdChangesNothing : Prop :=
  ∀ (id : BitVec 8) (s : State),
    (id.toNat = 255 ∨ s.allocated id.toNat = false → exec (.rel id) s = .next (failed 8 0 s)) ∧
    ∀ t, exec (.rel id) s = .next t → t.status = 0 → exec (.rel id) t = .next (failed 8 0 t)

/-- R167: HOFF of an allocated id makes HO a copy of its frames and sets its flag; RB, its range and every other row stay.
HOFF of any other id fails and leaves HO empty. -/
def Obligations.HoffCopiesThePacket : Prop :=
  ∀ (id : BitVec 8) (s : State),
    encode (.hoff id) = 0x32000000 ||| (id.setWidth 32 <<< 16) ∧
    (id.toNat < 255 → s.allocated id.toNat = true →
      ∃ rows, exec (.hoff id) s = .next (done ((s.entry id.toNat).last - (s.entry id.toNat).first + 1)
          { s with ho := s.packet id.toNat, ids := rows }) ∧
        rows.length = s.ids.length ∧
        ∀ j, rows.getD j IdEntry.free = if j = id.toNat then { s.entry j with handed := true } else s.entry j) ∧
    (254 < id.toNat ∨ s.allocated id.toNat = false → exec (.hoff id) s = .next (failed 8 0 { s with ho := [] }))

/-- R169 with R44: FPEND answers the least allocated id whose range starts at 0; under the id-index invariant there is
exactly one when RB holds a frame and none when it is empty, where FPEND fails with RESULT 255. -/
def Obligations.FpendFindsTheOldestPacket : Prop :=
  encode .fpend = 0x33000000 ∧
  ∀ s : State,
    (∀ i < 255, s.allocated i = true → (s.entry i).first = 0 →
      (∀ j < i, ¬(s.allocated j = true ∧ (s.entry j).first = 0)) → exec .fpend s = .next (done i s)) ∧
    ((∀ i < 255, ¬(s.allocated i = true ∧ (s.entry i).first = 0)) → exec .fpend s = .next (failed 11 255 s)) ∧
    (IdIndexInv s →
      (s.rb = [] → ∀ i < 255, ¬(s.allocated i = true ∧ (s.entry i).first = 0)) ∧
      (s.rb ≠ [] → ∃ i, (i < 255 ∧ s.allocated i = true ∧ (s.entry i).first = 0) ∧
        ∀ j < 255, s.allocated j = true → (s.entry j).first = 0 → j = i))

/-- R171: LDF copies the frame at `idx` of RB, HO or MQ into F and fails on an index at or beyond the length; the word with
src = 3 is no legal command (what writing one does, `IllegalWordsFailWithoutEffect` says). -/
def Obligations.LdfCopiesAStoredFrame : Prop :=
  ∀ (src : BitVec 2) (idx : BitVec 8) (s : State) (frames : List Frame),
    (src = 0 ∧ frames = s.rb) ∨ (src = 1 ∧ frames = s.ho) ∨ (src = 2 ∧ frames = s.mq) →
    encode (.ldf src idx) = 0x34000000 ||| (src.setWidth 32 <<< 16) ||| idx.setWidth 32 ∧
    (∀ g, frames[idx.toNat]? = some g →
      ∃ r, exec (.ldf src idx) s = .next (done g.pay.length { s with f := r }) ∧ holdsFrame r g) ∧
    (frames.length ≤ idx.toNat → exec (.ldf src idx) s = .next (failed 12 0 s)) ∧
    ∀ i, decode (0x34030000 ||| idx.setWidth 32) ≠ .ok i

/-- R48: the life of a packet id. SEGM alone makes a Free id Allocated, and only the one it answers; HOFF of the id alone
makes it HandedOff; REL of the id, SRST or reset alone makes it Free. -/
def Obligations.PacketIdLifecycle : Prop :=
  ∀ (i : Instr) (s t : State), IdIndexInv s → exec i s = .next t → ∀ j < 255,
    (s.allocated j = false → t.allocated j = true →
      (∃ p c d x, i = .segm p c d x) ∧ t.result.toNat = j ∧ (t.entry j).handed = false) ∧
    (s.allocated j = true → t.allocated j = false → i = .srst ∨ i = .rel (BitVec.ofNat 8 j)) ∧
    ((s.entry j).handed = false → (t.entry j).handed = true → i = .hoff (BitVec.ofNat 8 j)) ∧
    ((s.entry j).handed = true → (t.entry j).handed = false → t.allocated j = false) ∧
    (s.allocated j = true → i = .rel (BitVec.ofNat 8 j) → t.entry j = IdEntry.free) ∧
    (s.allocated j = true → i = .hoff (BitVec.ofNat 8 j) → t.allocated j = true ∧ (t.entry j).handed = true)

-- ## Reception (spec/43_reception.md)

/-- R186: NMORE answers 1 exactly on a fragment whose SegFlag is FIRST or MIDDLE, which, the four codes being distinct, is
"not LAST and not NONE". -/
def Obligations.NmoreReadsTagAndFlag : Prop :=
  encode .nmore = 0x40000000 ∧
  ∀ s : State,
    exec .nmore s = .next (done
      (if s.f.frag = true ∧ (s.f.seg.flag = s.params.sfFirst ∨ s.f.seg.flag = s.params.sfMiddle) then 1 else 0) s) ∧
    (s.params.wf → ((s.f.seg.flag = s.params.sfFirst ∨ s.f.seg.flag = s.params.sfMiddle) ↔
      (s.f.seg.flag ≠ s.params.sfLast ∧ s.f.seg.flag ≠ s.params.sfNone)))

/-- R188: ACCUM replaces the accumulator's content with an unfragmented payload and appends a fragment's, FIRST included;
an absent frame and an overflow fail and change nothing else. -/
def Obligations.AccumReplacesOrAppends : Prop :=
  encode .accum = 0x41000000 ∧
  ∀ s : State,
    let pay := (frameOfF s).pay
    (s.f.pv = false → exec .accum s = .next (failed 2 0 s)) ∧
    (s.f.pv = true → s.f.frag = false → exec .accum s = .next (done pay.length { s with acc := pay })) ∧
    (s.f.pv = true → s.f.frag = true → s.acc.length + pay.length ≤ s.params.accCap →
      exec .accum s = .next (done (s.acc.length + pay.length) { s with acc := s.acc ++ pay })) ∧
    (s.f.pv = true → s.f.frag = true → s.params.accCap < s.acc.length + pay.length →
      exec .accum s = .next (failed 10 0 s))

/-- R189: element 8i + j of the expansion is bit 7 - j of byte i, and there are eight elements for each byte. -/
def Obligations.BitExpansionIsMsbFirst : Prop :=
  ∀ b : List Byte, (bitsOf b).length = 8 * b.length ∧
    ∀ i x j, b[i]? = some x → j < 8 → (bitsOf b)[8 * i + j]? = some (x.getLsbD (7 - j))

/-- R190: TOBITS makes BITS the first min(8 ACC_LEN, 8192) bits of ACC, empties ACC in every case, and always succeeds.
R192: ACCCLR empties ACC and changes nothing else. -/
def Obligations.TobitsAndAccclrEmptyAcc : Prop :=
  encode .tobits = 0x42000000 ∧ encode .accclr = 0x43000000 ∧
  ∀ s : State, exec .accclr s = .next (done 0 { s with acc := [] }) ∧
    ∃ kept, exec .tobits s = .next (done (min (8 * s.acc.length) 8192) { s with bits := kept, acc := [] }) ∧
    kept.length = min (8 * s.acc.length) 8192 ∧
    ∀ i x j, s.acc[i]? = some x → i < 1024 → j < 8 → kept[8 * i + j]? = some (x.getLsbD (7 - j))

-- ## Host accesses (spec/44_system.md section 2, spec/10_state.md section 8)

/-- A host read returns a value and changes nothing of the block; the scalar registers read as R41 lays them out (R204). -/
def Obligations.HostReadsReturnTheRegisters : Prop :=
  (∀ (r : Reg) (s : State) (rest : List HostAction), s.pending = .readReg r :: rest →
    step s = .next { s with
      readData := hostReadReg r { s with pending := rest }, draws := s.draws + 1, pending := rest }) ∧
  ∀ s : State,
    hostReadReg .cmd s = 0 ∧ (hostReadReg .status s).toNat = s.status.toNat ∧
    (hostReadReg .result s).toNat = s.result.toNat ∧ (hostReadReg .diag s).toNat = s.diag.toNat ∧
    (hostReadReg .cfg s).toNat = s.cfg.toNat ∧ (hostReadReg .ppid s).toNat = s.ppid.toNat ∧
    (hostReadReg .rxLen s).toNat = s.rxLen.toNat ∧ (hostReadReg .sduLen s).toNat = s.sduLen.toNat ∧
    (hostReadReg .fFsn s).toNat = s.f.hdr.fsn.toNat ∧
    (s.Inv →
      (hostReadReg .rbCount s).toNat = s.rb.length ∧ (hostReadReg .pktCount s).toNat = s.pktCount ∧
      (hostReadReg .mqLen s).toNat = s.mq.length ∧ (hostReadReg .txLen s).toNat = s.tx.length ∧
      (hostReadReg .oLen s).toNat = s.o.length ∧ (hostReadReg .accLen s).toNat = s.acc.length ∧
      (hostReadReg .bitsLen s).toNat = s.bits.length ∧ (hostReadReg .hoCount s).toNat = s.ho.length)

/-- The packed registers of R41, as sums of their fields: F_CTL, the RANGE word, and F_HDRA, which R73 makes the first four
header bytes as one big-endian word. -/
def Obligations.PackedRegisterLayouts : Prop :=
  (∀ s : State, (hostReadReg .fCtl s).toNat =
    s.f.pv.toNat + 2 * s.f.frag.toNat + 2 ^ 8 * s.f.plen.toNat + 2 ^ 16 * s.f.seg.ppid.toNat +
      2 ^ 22 * s.f.seg.flag.toNat) ∧
  (∀ s : State, (hostReadReg .fHdra s).toNat =
    ((packHdr s.f.hdr).getD 0 0).toNat * 2 ^ 24 + ((packHdr s.f.hdr).getD 1 0).toNat * 2 ^ 16 +
      ((packHdr s.f.hdr).getD 2 0).toNat * 2 ^ 8 + ((packHdr s.f.hdr).getD 3 0).toNat) ∧
  ∀ e : IdEntry, e.first < 256 → e.last < 256 →
    (rangeWord e).toNat = e.first + 2 ^ 8 * e.last + 2 ^ 16 * e.alloc.toNat + 2 ^ 17 * e.handed.toNat

/-- R205: a written register reads back the written value within its width, another register keeps its value (F_HDRA, F_FSN
and F_CTL are apart), and a read-only register is not changed by a write. -/
def Obligations.HostRegisterWritesReadBack : Prop :=
  (∀ (r : Reg) (v : Word) (s : State) (m : Word), writeMask r = some m →
    hostReadReg r (hostWriteReg r v s) = v &&& m ∧ ∀ q, q ≠ r → hostReadReg q (hostWriteReg r v s) = hostReadReg q s) ∧
  (∀ (r : Reg) (v : Word) (s : State), writeMask r = none → hostWriteReg r v s = s) ∧
  ∀ (r : Reg) (v : Word) (s : State) (rest : List HostAction), r ≠ .cmd → s.pending = .writeReg r v :: rest →
    ∃ t, step s = .next t ∧ t = hostWriteReg r v { s with pending := rest } ∧
      { t with cfg := s.cfg, rxLen := s.rxLen, sduLen := s.sduLen, f := s.f, pending := s.pending } = s ∧ t.f.pay = s.f.pay

/-- R207 with R64: a host write to an element of FPAY, RX or SDU stores the low 8 bits there and leaves every other byte of
every space; a write elsewhere, or outside the space, changes nothing. -/
def Obligations.HostSpaceWritesStoreOneByte : Prop :=
  ∀ (space : Space) (i : Nat) (v : Word) (s : State) (rest : List HostAction),
    s.pending = .writeSpace space i v :: rest →
    ∃ t, step s = .next t ∧
      { t with f := { t.f with pay := s.f.pay }, rx := s.rx, sdu := s.sdu } = { s with pending := rest } ∧
      (∀ j, t.fpayByte j = if space = .fpay ∧ i < 255 ∧ j = i then v.setWidth 8 else s.fpayByte j) ∧
      (∀ j, t.rxByte j = if space = .rx ∧ i < 255 ∧ j = i then v.setWidth 8 else s.rxByte j) ∧
      ∀ j, t.sduByte j = if space = .sdu ∧ i < 65535 ∧ j = i then v.setWidth 8 else s.sduByte j

/-- R206 and R65: a host read of a space element returns it zero-extended (the byte stored; the byte of O, TX or ACC or the
bit of BITS below the length; the RANGE word) and changes nothing of the block. Where the spec leaves the value open the
statement says nothing of it (log 5, 14). -/
def Obligations.HostSpaceReadsReturnTheElement : Prop :=
  ∀ (space : Space) (i : Nat) (s : State) (rest : List HostAction), s.pending = .readSpace space i :: rest →
    ∃ v, step s = .next { s with readData := v, draws := s.draws + 1, pending := rest } ∧
      (∀ b, space = .fpay → i < 255 → Memory.read s.f.pay i = some b → v.toNat = b.toNat) ∧
      (∀ b, space = .rx → i < 255 → Memory.read s.rx i = some b → v.toNat = b.toNat) ∧
      (∀ b, space = .sdu → i < 65535 → Memory.read s.sdu i = some b → v.toNat = b.toNat) ∧
      (∀ b, space = .o → i < 261 → s.o[i]? = some b → v.toNat = b.toNat) ∧
      (∀ b, space = .tx → i < 255 → s.tx[i]? = some b → v.toNat = b.toNat) ∧
      (∀ b, space = .acc → i < s.params.accCap → s.acc[i]? = some b → v.toNat = b.toNat) ∧
      (∀ b, space = .bits → i < 8192 → s.bits[i]? = some b → v.toNat = b.toNat) ∧
      (space = .range → i < 255 → v = rangeWord (s.entry i))
end

