-- ==== Sys2Proof/Laws/Memory.lean ====
section
/-! SUPPORT. The spaces the host writes: a read after a write, and that every operation keeps the canonical form
(log 11). -/

namespace Sys2Proof.Machine

@[simp] theorem Memory.read_nil (i : Nat) : Memory.read [] i = none := rfl

/-- A read finds the cell the list holds for its index, if the list holds one. -/
theorem Memory.read_cons (c : Host.Cell) (m : Memory) (i : Nat) :
    Memory.read (c :: m) i = if c.1 = i then some c.2 else Memory.read m i := rfl

/-- A read after a write gives the byte written at its index, and what it gave before at every other. -/
theorem Memory.read_write (m : Memory) (i : Nat) (b : Byte) (j : Nat) :
    Memory.read (Memory.write m i b) j = if j = i then some b else Memory.read m j := by
  induction m with
  | nil => simp [Memory.write, Memory.read, eq_comm]
  | cons c m ih =>
    unfold Memory.write
    split
    · simp [Memory.read_cons, eq_comm]
    · split
      · rename_i h
        subst h
        simp only [Memory.read_cons]
        by_cases hj : j = c.1 <;> simp [hj, eq_comm]
      · rename_i h
        simp only [Memory.read_cons, ih]
        by_cases hc : c.1 = j
        · have : j ≠ i := fun e => h (hc.trans e)
          simp [hc, this]
        · simp [hc]

/-- Every cell after a write is an old cell or the one written. -/
theorem Memory.mem_write {m : Memory} {i : Nat} {b : Byte} {c : Host.Cell} (h : c ∈ Memory.write m i b) :
    c = (i, b) ∨ c ∈ m := by
  induction m with
  | nil => simpa [Memory.write] using h
  | cons d m ih =>
    unfold Memory.write at h
    split at h
    · simpa using h
    · split at h
      · rcases List.mem_cons.1 h with h | h
        · exact .inl h
        · exact .inr (List.mem_cons_of_mem _ h)
      · rcases List.mem_cons.1 h with h | h
        · exact .inr (h ▸ List.mem_cons_self)
        · exact (ih h).imp id (List.mem_cons_of_mem _)

@[simp] theorem Memory.wf_nil (size : Nat) : Memory.wf size [] :=
  ⟨.nil, fun _ hc => nomatch hc⟩

/-- A write within the space keeps the canonical form. -/
theorem Memory.write_wf {size : Nat} {m : Memory} {i : Nat} (b : Byte) (h : Memory.wf size m) (hi : i < size) :
    Memory.wf size (Memory.write m i b) := by
  refine ⟨?_, fun c hc => ?_⟩
  · obtain ⟨hs, -⟩ := h
    induction m with
    | nil => simp [Memory.write]
    | cons d m ih =>
      obtain ⟨hd, hm⟩ := List.pairwise_cons.1 hs
      unfold Memory.write
      split
      · rename_i hlt
        refine List.pairwise_cons.2 ⟨fun c hc => ?_, hs⟩
        rcases List.mem_cons.1 hc with rfl | hc
        · exact hlt
        · exact Nat.lt_trans hlt (hd c hc)
      · split
        · rename_i he
          exact List.pairwise_cons.2 ⟨fun c hc => he ▸ hd c hc, hm⟩
        · rename_i hge hne
          refine List.pairwise_cons.2 ⟨fun c hc => ?_, ih hm⟩
          rcases Memory.mem_write hc with rfl | hc
          · exact Nat.lt_of_le_of_ne (Nat.le_of_not_lt hge) hne
          · exact hd c hc
  · rcases Memory.mem_write hc with rfl | hc
    · exact hi
    · exact h.2 c hc

/-- A space written whole is in canonical form. -/
theorem Memory.filled_wf (size : Nat) (bytes : List Byte) : Memory.wf size (Memory.filled size bytes) := by
  refine ⟨?_, fun c hc => ?_⟩
  · exact List.pairwise_map.2 (List.pairwise_lt_range.imp fun h => h)
  · obtain ⟨i, hi, rfl⟩ := List.mem_map.1 hc
    exact List.mem_range.1 hi

/-- Reading a list of cells made from an initial segment of the indices. -/
theorem Memory.read_map_range (g : Nat → Byte) (n i : Nat) :
    Memory.read ((List.range n).map fun k => (k, g k)) i = if i < n then some (g i) else none := by
  suffices h : ∀ k, Memory.read ((List.range' k n).map fun j => (j, g j)) i =
      if k ≤ i ∧ i < k + n then some (g i) else none by
    simpa [List.range_eq_range'] using h 0
  induction n with
  | zero => intro k; simp
  | succ n ih =>
    intro k
    rw [List.range'_succ, List.map_cons, Memory.read_cons, ih (k + 1)]
    by_cases hk : k = i
    · subst hk; simp
    · simp only [hk, if_false]
      congr 1
      apply propext
      omega

/-- A space written whole reads as the bytes, then zeros, and holds nothing beyond its size (R23). -/
theorem Memory.read_filled (size : Nat) (bytes : List Byte) (i : Nat) :
    Memory.read (Memory.filled size bytes) i = if i < size then some (bytes.getD i 0) else none :=
  Memory.read_map_range (fun i => bytes.getD i 0) size i

end Sys2Proof.Machine
end

