-- ==== Sys2Proof/Laws/State.lean ====
section
/-! SUPPORT. What each field of the state is after each shared update: one lemma per field and update, true by unfolding. -/

namespace Sys2Proof.Machine

/-! `finish`: STATUS, RESULT and the draw counter (R219). -/

@[simp] theorem finish_status (v : Nat) (s : State) : (finish v s).status = 0#8 := rfl
@[simp] theorem finish_result (v : Nat) (s : State) : (finish v s).result = BitVec.ofNat 16 v := rfl
@[simp] theorem finish_diag (v : Nat) (s : State) : (finish v s).diag = s.diag := rfl
@[simp] theorem finish_cfg (v : Nat) (s : State) : (finish v s).cfg = s.cfg := rfl
@[simp] theorem finish_ppid (v : Nat) (s : State) : (finish v s).ppid = s.ppid := rfl
@[simp] theorem finish_f (v : Nat) (s : State) : (finish v s).f = s.f := rfl
@[simp] theorem finish_rb (v : Nat) (s : State) : (finish v s).rb = s.rb := rfl
@[simp] theorem finish_ids (v : Nat) (s : State) : (finish v s).ids = s.ids := rfl
@[simp] theorem finish_pktCount (v : Nat) (s : State) : (finish v s).pktCount = s.pktCount := rfl
@[simp] theorem finish_mq (v : Nat) (s : State) : (finish v s).mq = s.mq := rfl
@[simp] theorem finish_tx (v : Nat) (s : State) : (finish v s).tx = s.tx := rfl
@[simp] theorem finish_o (v : Nat) (s : State) : (finish v s).o = s.o := rfl
@[simp] theorem finish_rx (v : Nat) (s : State) : (finish v s).rx = s.rx := rfl
@[simp] theorem finish_rxLen (v : Nat) (s : State) : (finish v s).rxLen = s.rxLen := rfl
@[simp] theorem finish_sdu (v : Nat) (s : State) : (finish v s).sdu = s.sdu := rfl
@[simp] theorem finish_sduLen (v : Nat) (s : State) : (finish v s).sduLen = s.sduLen := rfl
@[simp] theorem finish_ho (v : Nat) (s : State) : (finish v s).ho = s.ho := rfl
@[simp] theorem finish_acc (v : Nat) (s : State) : (finish v s).acc = s.acc := rfl
@[simp] theorem finish_bits (v : Nat) (s : State) : (finish v s).bits = s.bits := rfl
@[simp] theorem finish_params (v : Nat) (s : State) : (finish v s).params = s.params := rfl
@[simp] theorem finish_draws (v : Nat) (s : State) : (finish v s).draws = s.draws + 1 := rfl
@[simp] theorem finish_readData (v : Nat) (s : State) : (finish v s).readData = s.readData := rfl
@[simp] theorem finish_pending (v : Nat) (s : State) : (finish v s).pending = s.pending := rfl

/-! `fail`: STATUS, RESULT, DIAG and the draw counter (R219). -/

@[simp] theorem fail_status (c : StatusCode) (v : Nat) (s : State) : (fail c v s).status = statusOf c := rfl
@[simp] theorem fail_result (c : StatusCode) (v : Nat) (s : State) : (fail c v s).result = BitVec.ofNat 16 v := rfl
@[simp] theorem fail_diag (c : StatusCode) (v : Nat) (s : State) : (fail c v s).diag = setDiag s.diag c := rfl
@[simp] theorem fail_cfg (c : StatusCode) (v : Nat) (s : State) : (fail c v s).cfg = s.cfg := rfl
@[simp] theorem fail_ppid (c : StatusCode) (v : Nat) (s : State) : (fail c v s).ppid = s.ppid := rfl
@[simp] theorem fail_f (c : StatusCode) (v : Nat) (s : State) : (fail c v s).f = s.f := rfl
@[simp] theorem fail_rb (c : StatusCode) (v : Nat) (s : State) : (fail c v s).rb = s.rb := rfl
@[simp] theorem fail_ids (c : StatusCode) (v : Nat) (s : State) : (fail c v s).ids = s.ids := rfl
@[simp] theorem fail_pktCount (c : StatusCode) (v : Nat) (s : State) : (fail c v s).pktCount = s.pktCount := rfl
@[simp] theorem fail_mq (c : StatusCode) (v : Nat) (s : State) : (fail c v s).mq = s.mq := rfl
@[simp] theorem fail_tx (c : StatusCode) (v : Nat) (s : State) : (fail c v s).tx = s.tx := rfl
@[simp] theorem fail_o (c : StatusCode) (v : Nat) (s : State) : (fail c v s).o = s.o := rfl
@[simp] theorem fail_rx (c : StatusCode) (v : Nat) (s : State) : (fail c v s).rx = s.rx := rfl
@[simp] theorem fail_rxLen (c : StatusCode) (v : Nat) (s : State) : (fail c v s).rxLen = s.rxLen := rfl
@[simp] theorem fail_sdu (c : StatusCode) (v : Nat) (s : State) : (fail c v s).sdu = s.sdu := rfl
@[simp] theorem fail_sduLen (c : StatusCode) (v : Nat) (s : State) : (fail c v s).sduLen = s.sduLen := rfl
@[simp] theorem fail_ho (c : StatusCode) (v : Nat) (s : State) : (fail c v s).ho = s.ho := rfl
@[simp] theorem fail_acc (c : StatusCode) (v : Nat) (s : State) : (fail c v s).acc = s.acc := rfl
@[simp] theorem fail_bits (c : StatusCode) (v : Nat) (s : State) : (fail c v s).bits = s.bits := rfl
@[simp] theorem fail_params (c : StatusCode) (v : Nat) (s : State) : (fail c v s).params = s.params := rfl
@[simp] theorem fail_draws (c : StatusCode) (v : Nat) (s : State) : (fail c v s).draws = s.draws + 1 := rfl
@[simp] theorem fail_readData (c : StatusCode) (v : Nat) (s : State) : (fail c v s).readData = s.readData := rfl
@[simp] theorem fail_pending (c : StatusCode) (v : Nat) (s : State) : (fail c v s).pending = s.pending := rfl

/-! `loadF`: F alone (R23). -/

@[simp] theorem loadF_status (g : Frame) (s : State) : (loadF g s).status = s.status := rfl
@[simp] theorem loadF_result (g : Frame) (s : State) : (loadF g s).result = s.result := rfl
@[simp] theorem loadF_diag (g : Frame) (s : State) : (loadF g s).diag = s.diag := rfl
@[simp] theorem loadF_cfg (g : Frame) (s : State) : (loadF g s).cfg = s.cfg := rfl
@[simp] theorem loadF_ppid (g : Frame) (s : State) : (loadF g s).ppid = s.ppid := rfl
@[simp] theorem loadF_f (g : Frame) (s : State) : (loadF g s).f = { pv := g.pv, frag := g.frag, hdr := g.hdr, seg := g.seg, plen := BitVec.ofNat 8 g.pay.length, pay := Memory.filled plenMax g.pay } := rfl
@[simp] theorem loadF_rb (g : Frame) (s : State) : (loadF g s).rb = s.rb := rfl
@[simp] theorem loadF_ids (g : Frame) (s : State) : (loadF g s).ids = s.ids := rfl
@[simp] theorem loadF_pktCount (g : Frame) (s : State) : (loadF g s).pktCount = s.pktCount := rfl
@[simp] theorem loadF_mq (g : Frame) (s : State) : (loadF g s).mq = s.mq := rfl
@[simp] theorem loadF_tx (g : Frame) (s : State) : (loadF g s).tx = s.tx := rfl
@[simp] theorem loadF_o (g : Frame) (s : State) : (loadF g s).o = s.o := rfl
@[simp] theorem loadF_rx (g : Frame) (s : State) : (loadF g s).rx = s.rx := rfl
@[simp] theorem loadF_rxLen (g : Frame) (s : State) : (loadF g s).rxLen = s.rxLen := rfl
@[simp] theorem loadF_sdu (g : Frame) (s : State) : (loadF g s).sdu = s.sdu := rfl
@[simp] theorem loadF_sduLen (g : Frame) (s : State) : (loadF g s).sduLen = s.sduLen := rfl
@[simp] theorem loadF_ho (g : Frame) (s : State) : (loadF g s).ho = s.ho := rfl
@[simp] theorem loadF_acc (g : Frame) (s : State) : (loadF g s).acc = s.acc := rfl
@[simp] theorem loadF_bits (g : Frame) (s : State) : (loadF g s).bits = s.bits := rfl
@[simp] theorem loadF_params (g : Frame) (s : State) : (loadF g s).params = s.params := rfl
@[simp] theorem loadF_draws (g : Frame) (s : State) : (loadF g s).draws = s.draws := rfl
@[simp] theorem loadF_readData (g : Frame) (s : State) : (loadF g s).readData = s.readData := rfl
@[simp] theorem loadF_pending (g : Frame) (s : State) : (loadF g s).pending = s.pending := rfl

/-! `resetBlock`: all but the fields that are no state of the block (R240). -/

@[simp] theorem resetBlock_status (s : State) : (resetBlock s).status = (State.resetWith s.params).status := rfl
@[simp] theorem resetBlock_result (s : State) : (resetBlock s).result = (State.resetWith s.params).result := rfl
@[simp] theorem resetBlock_diag (s : State) : (resetBlock s).diag = (State.resetWith s.params).diag := rfl
@[simp] theorem resetBlock_cfg (s : State) : (resetBlock s).cfg = (State.resetWith s.params).cfg := rfl
@[simp] theorem resetBlock_ppid (s : State) : (resetBlock s).ppid = (State.resetWith s.params).ppid := rfl
@[simp] theorem resetBlock_f (s : State) : (resetBlock s).f = (State.resetWith s.params).f := rfl
@[simp] theorem resetBlock_rb (s : State) : (resetBlock s).rb = (State.resetWith s.params).rb := rfl
@[simp] theorem resetBlock_ids (s : State) : (resetBlock s).ids = (State.resetWith s.params).ids := rfl
@[simp] theorem resetBlock_pktCount (s : State) : (resetBlock s).pktCount = (State.resetWith s.params).pktCount := rfl
@[simp] theorem resetBlock_mq (s : State) : (resetBlock s).mq = (State.resetWith s.params).mq := rfl
@[simp] theorem resetBlock_tx (s : State) : (resetBlock s).tx = (State.resetWith s.params).tx := rfl
@[simp] theorem resetBlock_o (s : State) : (resetBlock s).o = (State.resetWith s.params).o := rfl
@[simp] theorem resetBlock_rx (s : State) : (resetBlock s).rx = (State.resetWith s.params).rx := rfl
@[simp] theorem resetBlock_rxLen (s : State) : (resetBlock s).rxLen = (State.resetWith s.params).rxLen := rfl
@[simp] theorem resetBlock_sdu (s : State) : (resetBlock s).sdu = (State.resetWith s.params).sdu := rfl
@[simp] theorem resetBlock_sduLen (s : State) : (resetBlock s).sduLen = (State.resetWith s.params).sduLen := rfl
@[simp] theorem resetBlock_ho (s : State) : (resetBlock s).ho = (State.resetWith s.params).ho := rfl
@[simp] theorem resetBlock_acc (s : State) : (resetBlock s).acc = (State.resetWith s.params).acc := rfl
@[simp] theorem resetBlock_bits (s : State) : (resetBlock s).bits = (State.resetWith s.params).bits := rfl
@[simp] theorem resetBlock_params (s : State) : (resetBlock s).params = s.params := rfl
@[simp] theorem resetBlock_draws (s : State) : (resetBlock s).draws = s.draws := rfl
@[simp] theorem resetBlock_readData (s : State) : (resetBlock s).readData = s.readData := rfl
@[simp] theorem resetBlock_pending (s : State) : (resetBlock s).pending = s.pending := rfl

/-! `returnRead`: the value returned and the draw counter. -/

@[simp] theorem returnRead_status (v : Word) (s : State) : (returnRead v s).status = s.status := rfl
@[simp] theorem returnRead_result (v : Word) (s : State) : (returnRead v s).result = s.result := rfl
@[simp] theorem returnRead_diag (v : Word) (s : State) : (returnRead v s).diag = s.diag := rfl
@[simp] theorem returnRead_cfg (v : Word) (s : State) : (returnRead v s).cfg = s.cfg := rfl
@[simp] theorem returnRead_ppid (v : Word) (s : State) : (returnRead v s).ppid = s.ppid := rfl
@[simp] theorem returnRead_f (v : Word) (s : State) : (returnRead v s).f = s.f := rfl
@[simp] theorem returnRead_rb (v : Word) (s : State) : (returnRead v s).rb = s.rb := rfl
@[simp] theorem returnRead_ids (v : Word) (s : State) : (returnRead v s).ids = s.ids := rfl
@[simp] theorem returnRead_pktCount (v : Word) (s : State) : (returnRead v s).pktCount = s.pktCount := rfl
@[simp] theorem returnRead_mq (v : Word) (s : State) : (returnRead v s).mq = s.mq := rfl
@[simp] theorem returnRead_tx (v : Word) (s : State) : (returnRead v s).tx = s.tx := rfl
@[simp] theorem returnRead_o (v : Word) (s : State) : (returnRead v s).o = s.o := rfl
@[simp] theorem returnRead_rx (v : Word) (s : State) : (returnRead v s).rx = s.rx := rfl
@[simp] theorem returnRead_rxLen (v : Word) (s : State) : (returnRead v s).rxLen = s.rxLen := rfl
@[simp] theorem returnRead_sdu (v : Word) (s : State) : (returnRead v s).sdu = s.sdu := rfl
@[simp] theorem returnRead_sduLen (v : Word) (s : State) : (returnRead v s).sduLen = s.sduLen := rfl
@[simp] theorem returnRead_ho (v : Word) (s : State) : (returnRead v s).ho = s.ho := rfl
@[simp] theorem returnRead_acc (v : Word) (s : State) : (returnRead v s).acc = s.acc := rfl
@[simp] theorem returnRead_bits (v : Word) (s : State) : (returnRead v s).bits = s.bits := rfl
@[simp] theorem returnRead_params (v : Word) (s : State) : (returnRead v s).params = s.params := rfl
@[simp] theorem returnRead_draws (v : Word) (s : State) : (returnRead v s).draws = s.draws + 1 := rfl
@[simp] theorem returnRead_readData (v : Word) (s : State) : (returnRead v s).readData = v := rfl
@[simp] theorem returnRead_pending (v : Word) (s : State) : (returnRead v s).pending = s.pending := rfl

/-! `State.resetWith`: the reset values (R240). -/

@[simp] theorem resetWith_status (p : Params) : (State.resetWith p).status = 0 := rfl
@[simp] theorem resetWith_result (p : Params) : (State.resetWith p).result = 0 := rfl
@[simp] theorem resetWith_diag (p : Params) : (State.resetWith p).diag = 0 := rfl
@[simp] theorem resetWith_cfg (p : Params) : (State.resetWith p).cfg = 0 := rfl
@[simp] theorem resetWith_ppid (p : Params) : (State.resetWith p).ppid = 0 := rfl
@[simp] theorem resetWith_f (p : Params) : (State.resetWith p).f = FrameReg.empty := rfl
@[simp] theorem resetWith_rb (p : Params) : (State.resetWith p).rb = [] := rfl
@[simp] theorem resetWith_ids (p : Params) : (State.resetWith p).ids = List.replicate idCount IdEntry.free := rfl
@[simp] theorem resetWith_pktCount (p : Params) : (State.resetWith p).pktCount = 0 := rfl
@[simp] theorem resetWith_mq (p : Params) : (State.resetWith p).mq = [] := rfl
@[simp] theorem resetWith_tx (p : Params) : (State.resetWith p).tx = [] := rfl
@[simp] theorem resetWith_o (p : Params) : (State.resetWith p).o = [] := rfl
@[simp] theorem resetWith_rx (p : Params) : (State.resetWith p).rx = [] := rfl
@[simp] theorem resetWith_rxLen (p : Params) : (State.resetWith p).rxLen = 0 := rfl
@[simp] theorem resetWith_sdu (p : Params) : (State.resetWith p).sdu = [] := rfl
@[simp] theorem resetWith_sduLen (p : Params) : (State.resetWith p).sduLen = 0 := rfl
@[simp] theorem resetWith_ho (p : Params) : (State.resetWith p).ho = [] := rfl
@[simp] theorem resetWith_acc (p : Params) : (State.resetWith p).acc = [] := rfl
@[simp] theorem resetWith_bits (p : Params) : (State.resetWith p).bits = [] := rfl
@[simp] theorem resetWith_params (p : Params) : (State.resetWith p).params = p := rfl
@[simp] theorem resetWith_draws (p : Params) : (State.resetWith p).draws = 0 := rfl
@[simp] theorem resetWith_readData (p : Params) : (State.resetWith p).readData = 0 := rfl
@[simp] theorem resetWith_pending (p : Params) : (State.resetWith p).pending = [] := rfl

/-! `hostWriteReg` and `hostWriteSpace`: what no host write changes (R67, R205, R207). -/

@[simp] theorem hostWriteReg_status (r : Reg) (v : Word) (s : State) : (hostWriteReg r v s).status = s.status := by
  cases r <;> rfl
@[simp] theorem hostWriteReg_result (r : Reg) (v : Word) (s : State) : (hostWriteReg r v s).result = s.result := by
  cases r <;> rfl
@[simp] theorem hostWriteReg_diag (r : Reg) (v : Word) (s : State) : (hostWriteReg r v s).diag = s.diag := by
  cases r <;> rfl
@[simp] theorem hostWriteReg_ppid (r : Reg) (v : Word) (s : State) : (hostWriteReg r v s).ppid = s.ppid := by
  cases r <;> rfl
@[simp] theorem hostWriteReg_rb (r : Reg) (v : Word) (s : State) : (hostWriteReg r v s).rb = s.rb := by
  cases r <;> rfl
@[simp] theorem hostWriteReg_ids (r : Reg) (v : Word) (s : State) : (hostWriteReg r v s).ids = s.ids := by
  cases r <;> rfl
@[simp] theorem hostWriteReg_pktCount (r : Reg) (v : Word) (s : State) : (hostWriteReg r v s).pktCount = s.pktCount := by
  cases r <;> rfl
@[simp] theorem hostWriteReg_mq (r : Reg) (v : Word) (s : State) : (hostWriteReg r v s).mq = s.mq := by
  cases r <;> rfl
@[simp] theorem hostWriteReg_tx (r : Reg) (v : Word) (s : State) : (hostWriteReg r v s).tx = s.tx := by
  cases r <;> rfl
@[simp] theorem hostWriteReg_o (r : Reg) (v : Word) (s : State) : (hostWriteReg r v s).o = s.o := by
  cases r <;> rfl
@[simp] theorem hostWriteReg_rx (r : Reg) (v : Word) (s : State) : (hostWriteReg r v s).rx = s.rx := by
  cases r <;> rfl
@[simp] theorem hostWriteReg_sdu (r : Reg) (v : Word) (s : State) : (hostWriteReg r v s).sdu = s.sdu := by
  cases r <;> rfl
@[simp] theorem hostWriteReg_ho (r : Reg) (v : Word) (s : State) : (hostWriteReg r v s).ho = s.ho := by
  cases r <;> rfl
@[simp] theorem hostWriteReg_acc (r : Reg) (v : Word) (s : State) : (hostWriteReg r v s).acc = s.acc := by
  cases r <;> rfl
@[simp] theorem hostWriteReg_bits (r : Reg) (v : Word) (s : State) : (hostWriteReg r v s).bits = s.bits := by
  cases r <;> rfl
@[simp] theorem hostWriteReg_params (r : Reg) (v : Word) (s : State) : (hostWriteReg r v s).params = s.params := by
  cases r <;> rfl
@[simp] theorem hostWriteReg_draws (r : Reg) (v : Word) (s : State) : (hostWriteReg r v s).draws = s.draws := by
  cases r <;> rfl
@[simp] theorem hostWriteReg_readData (r : Reg) (v : Word) (s : State) : (hostWriteReg r v s).readData = s.readData := by
  cases r <;> rfl
@[simp] theorem hostWriteReg_pending (r : Reg) (v : Word) (s : State) : (hostWriteReg r v s).pending = s.pending := by
  cases r <;> rfl

@[simp] theorem hostWriteReg_fpay (r : Reg) (v : Word) (s : State) : (hostWriteReg r v s).f.pay = s.f.pay := by
  cases r <;> rfl

@[simp] theorem hostWriteSpace_status (space : Space) (i : Nat) (v : Word) (s : State) :
    (hostWriteSpace space i v s).status = s.status := by
  unfold hostWriteSpace; split <;> cases space <;> rfl
@[simp] theorem hostWriteSpace_result (space : Space) (i : Nat) (v : Word) (s : State) :
    (hostWriteSpace space i v s).result = s.result := by
  unfold hostWriteSpace; split <;> cases space <;> rfl
@[simp] theorem hostWriteSpace_diag (space : Space) (i : Nat) (v : Word) (s : State) :
    (hostWriteSpace space i v s).diag = s.diag := by
  unfold hostWriteSpace; split <;> cases space <;> rfl
@[simp] theorem hostWriteSpace_cfg (space : Space) (i : Nat) (v : Word) (s : State) :
    (hostWriteSpace space i v s).cfg = s.cfg := by
  unfold hostWriteSpace; split <;> cases space <;> rfl
@[simp] theorem hostWriteSpace_ppid (space : Space) (i : Nat) (v : Word) (s : State) :
    (hostWriteSpace space i v s).ppid = s.ppid := by
  unfold hostWriteSpace; split <;> cases space <;> rfl
@[simp] theorem hostWriteSpace_rb (space : Space) (i : Nat) (v : Word) (s : State) :
    (hostWriteSpace space i v s).rb = s.rb := by
  unfold hostWriteSpace; split <;> cases space <;> rfl
@[simp] theorem hostWriteSpace_ids (space : Space) (i : Nat) (v : Word) (s : State) :
    (hostWriteSpace space i v s).ids = s.ids := by
  unfold hostWriteSpace; split <;> cases space <;> rfl
@[simp] theorem hostWriteSpace_pktCount (space : Space) (i : Nat) (v : Word) (s : State) :
    (hostWriteSpace space i v s).pktCount = s.pktCount := by
  unfold hostWriteSpace; split <;> cases space <;> rfl
@[simp] theorem hostWriteSpace_mq (space : Space) (i : Nat) (v : Word) (s : State) :
    (hostWriteSpace space i v s).mq = s.mq := by
  unfold hostWriteSpace; split <;> cases space <;> rfl
@[simp] theorem hostWriteSpace_tx (space : Space) (i : Nat) (v : Word) (s : State) :
    (hostWriteSpace space i v s).tx = s.tx := by
  unfold hostWriteSpace; split <;> cases space <;> rfl
@[simp] theorem hostWriteSpace_o (space : Space) (i : Nat) (v : Word) (s : State) :
    (hostWriteSpace space i v s).o = s.o := by
  unfold hostWriteSpace; split <;> cases space <;> rfl
@[simp] theorem hostWriteSpace_rxLen (space : Space) (i : Nat) (v : Word) (s : State) :
    (hostWriteSpace space i v s).rxLen = s.rxLen := by
  unfold hostWriteSpace; split <;> cases space <;> rfl
@[simp] theorem hostWriteSpace_sduLen (space : Space) (i : Nat) (v : Word) (s : State) :
    (hostWriteSpace space i v s).sduLen = s.sduLen := by
  unfold hostWriteSpace; split <;> cases space <;> rfl
@[simp] theorem hostWriteSpace_ho (space : Space) (i : Nat) (v : Word) (s : State) :
    (hostWriteSpace space i v s).ho = s.ho := by
  unfold hostWriteSpace; split <;> cases space <;> rfl
@[simp] theorem hostWriteSpace_acc (space : Space) (i : Nat) (v : Word) (s : State) :
    (hostWriteSpace space i v s).acc = s.acc := by
  unfold hostWriteSpace; split <;> cases space <;> rfl
@[simp] theorem hostWriteSpace_bits (space : Space) (i : Nat) (v : Word) (s : State) :
    (hostWriteSpace space i v s).bits = s.bits := by
  unfold hostWriteSpace; split <;> cases space <;> rfl
@[simp] theorem hostWriteSpace_params (space : Space) (i : Nat) (v : Word) (s : State) :
    (hostWriteSpace space i v s).params = s.params := by
  unfold hostWriteSpace; split <;> cases space <;> rfl
@[simp] theorem hostWriteSpace_draws (space : Space) (i : Nat) (v : Word) (s : State) :
    (hostWriteSpace space i v s).draws = s.draws := by
  unfold hostWriteSpace; split <;> cases space <;> rfl
@[simp] theorem hostWriteSpace_readData (space : Space) (i : Nat) (v : Word) (s : State) :
    (hostWriteSpace space i v s).readData = s.readData := by
  unfold hostWriteSpace; split <;> cases space <;> rfl
@[simp] theorem hostWriteSpace_pending (space : Space) (i : Nat) (v : Word) (s : State) :
    (hostWriteSpace space i v s).pending = s.pending := by
  unfold hostWriteSpace; split <;> cases space <;> rfl

end Sys2Proof.Machine
end

