-- ==== Sys2Proof/Laws/Ops.lean ====
section
/-! SUPPORT. One lemma per shared operation that says all it can do. -/

namespace Sys2Proof.Machine

/-- `done` answers ST_OK (R219). -/
theorem statusOf_ok : statusOf .ok = 0#8 := rfl

/-- Every failure code is a nonzero STATUS (R215). -/
theorem statusOf_ne_zero {c : StatusCode} (h : c ≠ .ok) : statusOf c ≠ 0#8 := by
  cases c <;> first | exact absurd rfl h | decide

/-- STATUS as a number is the code (R215). -/
theorem statusOf_toNat (c : StatusCode) : (statusOf c).toNat = c.code := by
  cases c <;> rfl

/-- Setting a DIAG bit sets that bit and keeps the others (R220). -/
theorem setDiag_getLsbD (d : BitVec 16) (c : StatusCode) (k : Nat) :
    (setDiag d c).getLsbD k = (d.getLsbD k || decide (c.code = k)) := by
  have : c.code < 16 := by cases c <;> decide
  simp [setDiag, BitVec.getLsbD_twoPow, this]

/-- The least id that meets `p`: it is below 255, meets `p`, and no lower id does. -/
theorem leastId_eq_some {p : Nat → Bool} {i : Nat} :
    leastId p = some i ↔ p i = true ∧ i < idCount ∧ ∀ j < i, p j = false := by
  simp [leastId, List.find?_range_eq_some]

/-- No id meets `p`. -/
theorem leastId_eq_none {p : Nat → Bool} : leastId p = none ↔ ∀ i < idCount, p i = false := by
  simp [leastId, List.find?_eq_none, List.mem_range]

/-- Row `j` after row `i` is replaced. -/
theorem getD_set_row (ids : List IdEntry) (i j : Nat) (e : IdEntry) (h : i < ids.length) :
    (ids.set i e).getD j .free = if j = i then e else ids.getD j .free := by
  by_cases hj : j = i
  · subst hj; simp [List.getD, h]
  · simp [List.getD, List.getElem?_set_ne (Ne.symm hj), hj]

/-- Every row of an index of Free rows is Free. -/
theorem getD_replicate_free (n i : Nat) : (List.replicate n IdEntry.free).getD i .free = .free := by
  rw [List.getD, List.getElem?_replicate]
  split <;> rfl

/-- After reset every id is Free (R240). -/
@[simp] theorem entry_resetWith (p : Params) (i : Nat) : (State.resetWith p).entry i = .free :=
  getD_replicate_free idCount i

/-- An allocated id has a row of its own. -/
theorem lt_length_of_allocated {s : State} {i : Nat} (h : s.allocated i = true) : i < s.ids.length := by
  by_contra hi
  have : s.entry i = IdEntry.free := by simp [State.entry, List.getD, Nat.le_of_not_lt hi]
  simp [State.allocated, this, IdEntry.free] at h

/-- Re-basing keeps a Free row (R165). -/
@[simp] theorem rebase_free (last c : Nat) : rebase last c .free = .free := rfl

/-- Row `j` after re-basing. -/
theorem getD_map_rebase (ids : List IdEntry) (last c j : Nat) :
    (ids.map (rebase last c)).getD j .free = rebase last c (ids.getD j .free) := by
  simp only [List.getD, List.getElem?_map]
  cases ids[j]? <;> rfl

/-- FPAY's bytes and the length give the payload of `frame_of_F` (R23). -/
theorem frameOfF_pay_length (s : State) : (frameOfF s).pay.length = s.f.plen.toNat := by
  simp [frameOfF]

/-- A frame of F has at most 255 payload bytes (R20). -/
theorem frameOfF_pay_le (s : State) : (frameOfF s).pay.length ≤ plenMax := by
  have := s.f.plen.isLt
  simp only [frameOfF_pay_length, plenMax]
  omega

/-- What is loaded into F is the frame of F from then on, whatever else changes: no byte of it is a free value (R23). -/
theorem frameOfF_of_loaded {g : Frame} {s t : State} (h : g.pay.length ≤ plenMax) (ht : t.f = (loadF g s).f) :
    frameOfF t = g := by
  have hl : g.pay.length % 2 ^ 8 = g.pay.length := Nat.mod_eq_of_lt (by simp only [plenMax] at h; omega)
  have hpay : (List.range g.pay.length).map t.fpayByte = g.pay := by
    apply List.ext_getElem
    · simp
    · intro i hi hi'
      have h255 : i < plenMax := Nat.lt_of_lt_of_le hi' h
      simp [State.fpayByte, ht, Memory.read_filled, h255, List.getD, List.getElem?_eq_getElem hi']
  simp only [frameOfF, ht, loadF_f, BitVec.toNat_ofNat, hl, hpay]

/-- The bytes DESER reads are RX_LEN many (R37). -/
@[simp] theorem rxBytes_length (s : State) : (rxBytes s).length = s.rxLen.toNat := by
  simp [rxBytes]

/-- Byte `i` of them is RX[i]. -/
theorem rxBytes_getD (s : State) (i : Nat) (h : i < s.rxLen.toNat) : (rxBytes s).getD i 0 = s.rxByte i := by
  simp [rxBytes, List.getD, h]

/-- A slice of SDU has the length asked for (R38). -/
@[simp] theorem sduSlice_length (s : State) (i n : Nat) : (sduSlice s i n).length = n := by
  simp [sduSlice]

/-- The serialized form has the serialized length (R114). -/
theorem serBytes_length (g : Frame) : (serBytes g).length = serLen g := by
  unfold serBytes serLen packHdr
  cases g.frag <;> simp <;> omega

/-- All `parse` can answer: a frame present, of the form DFC_ID tells, whose payload is data_length_low bytes of the input
behind the header or headers, and the count of bytes that takes (R120). -/
theorem parse_eq_some {p : Params} {b : List Byte} {g : Frame} {k : Nat} (h : parse p b = some (g, k)) :
    hdrSize ≤ b.length ∧ k ≤ b.length ∧ g.pv = true ∧ g.hdr = unpackHdr b ∧
    g.frag = decide ((unpackHdr b).dfc = p.dfcFrag) ∧
    g.seg = (if g.frag then unpackSeg (b.getD hdrSize 0) else .zero) ∧
    k = (if g.frag then hdrSize + segSize else hdrSize) + (b.getD 3 0).toNat ∧
    g.pay = (b.drop (if g.frag then hdrSize + segSize else hdrSize)).take (b.getD 3 0).toNat := by
  simp only [parse] at h
  by_cases h5 : b.length < hdrSize
  · simp [h5] at h
  · rw [if_neg h5] at h
    by_cases hl : b.length < (if decide ((unpackHdr b).dfc = p.dfcFrag) = true then hdrSize + segSize else hdrSize) +
        (b.getD 3 0).toNat
    · rw [if_pos hl] at h
      cases h
    · rw [if_neg hl] at h
      simp only [Option.some.injEq, Prod.mk.injEq] at h
      obtain ⟨rfl, rfl⟩ := h
      exact ⟨Nat.le_of_not_lt h5, Nat.le_of_not_lt hl, rfl, rfl, rfl, rfl, rfl, rfl⟩

/-- A parsed payload has data_length_low bytes, at most 255 (R120, R20). -/
theorem parse_pay_length {p : Params} {b : List Byte} {g : Frame} {k : Nat} (h : parse p b = some (g, k)) :
    g.pay.length = (b.getD 3 0).toNat ∧ g.pay.length ≤ plenMax ∧ k = serLen g := by
  obtain ⟨-, hk, -, -, -, -, hk', hpay⟩ := parse_eq_some h
  have hlt := (b.getD 3 0).isLt
  have hlen : g.pay.length = (b.getD 3 0).toNat := by
    rw [hpay, List.length_take, List.length_drop]
    omega
  refine ⟨hlen, ?_, ?_⟩
  · simp only [plenMax]; omega
  · rw [hk', serLen, hlen]
    cases g.frag <;> rfl

/-- Where LDF reads from (R171): three sequences, and none for `src = 3` (R96). -/
theorem sourceFrames_cases (src : BitVec 2) (s : State) :
    (src = 0 ∧ sourceFrames src s = some s.rb) ∨ (src = 1 ∧ sourceFrames src s = some s.ho) ∨
    (src = 2 ∧ sourceFrames src s = some s.mq) ∨ (src = 3 ∧ sourceFrames src s = none) := by
  have h : src = 0 ∨ src = 1 ∨ src = 2 ∨ src = 3 := by revert src; decide
  rcases h with rfl | rfl | rfl | rfl <;> simp [sourceFrames]

/-- A step that answers performed the first pending action on the state without it (R68). -/
theorem step_next {s t : State} (h : step s = .next t) :
    ∃ a rest, s.pending = a :: rest ∧ perform a { s with pending := rest } = .next t := by
  unfold step at h
  split at h
  · cases h
  · exact ⟨_, _, by assumption, h⟩

/-- All an action can be: a command, an illegal word, a host access that only moves its value, or reset (R67). -/
theorem perform_cases (a : HostAction) (s : State) :
    (∃ w i, a = .writeReg .cmd w ∧ decode w = .ok i ∧ perform a s = exec i s) ∨
    (∃ w e, a = .writeReg .cmd w ∧ decode w = .error e ∧ perform a s = .next (illegalCommand s)) ∨
    (∃ r v, r ≠ .cmd ∧ a = .writeReg r v ∧ perform a s = .next (hostWriteReg r v s)) ∨
    (∃ r, a = .readReg r ∧ perform a s = .next (returnRead (hostReadReg r s) s)) ∨
    (∃ space i v, a = .writeSpace space i v ∧ perform a s = .next (hostWriteSpace space i v s)) ∨
    (∃ space i, a = .readSpace space i ∧ perform a s = .next (returnRead (hostReadSpace space i s) s)) ∨
    (a = .hardwareReset ∧ perform a s = .next (finish 0 (resetBlock s))) := by
  cases a with
  | writeReg r v =>
    by_cases hr : r = .cmd
    · subst hr
      cases hd : decode v with
      | ok i => exact .inl ⟨v, i, rfl, hd, by simp [perform, runCommand, hd]⟩
      | error e => exact .inr (.inl ⟨v, e, rfl, hd, by simp [perform, runCommand, hd]⟩)
    · exact .inr (.inr (.inl ⟨r, v, hr, rfl, by simp [perform, hr]⟩))
  | readReg r => exact .inr (.inr (.inr (.inl ⟨r, rfl, rfl⟩)))
  | writeSpace space i v => exact .inr (.inr (.inr (.inr (.inl ⟨space, i, v, rfl, rfl⟩))))
  | readSpace space i => exact .inr (.inr (.inr (.inr (.inr (.inl ⟨space, i, rfl, rfl⟩)))))
  | hardwareReset => exact .inr (.inr (.inr (.inr (.inr (.inr ⟨rfl, rfl⟩)))))

/-- A run of no steps stays where it is. -/
theorem run_zero (s : State) : (core.run 0 s : Host.Outcome State Fault Refusal) = .next s := rfl

/-- A run of one step more goes on from where the first step leads. -/
theorem run_succ {s t : State} (k : Nat) (h : step s = .next t) :
    (core.run (k + 1) s : Host.Outcome State Fault Refusal) = core.run k t := by
  have h' : core.step s = .next t := h
  simp only [Host.Core.run, h']

/-- The action `withFetchWord` places is the next one performed. -/
theorem step_withFetchWord (s : State) (nbits w : Nat) :
    step (s.withFetchWord nbits w) = runCommand (BitVec.ofNat 32 (w % 2 ^ nbits)) s := rfl

end Sys2Proof.Machine
end

