-- ==== Sys2Proof/Laws/PerInstr.lean ====
section
/-! SUPPORT. Statements about every command as syntax, one lemma per constructor. -/

namespace Sys2Proof.Laws.OpcodeField

/-- The word of the command holds its opcode of R95 in bits 31:24, operand A in bits 23:16 and operand B in bits 15:0
(R92). -/
def Statement (i : Instr) : Prop :=
  (encode i).extractLsb' 24 8 = i.opcode ∧ (encode i).extractLsb' 16 8 = i.operandA ∧
  (encode i).extractLsb' 0 16 = i.operandB

/-- The fields of a word laid out as `op << 24 | a << 16 | b`. -/
theorem fields_of_word (op a : BitVec 8) (b : BitVec 16) :
    (op ++ a ++ b : BitVec 32).extractLsb' 24 8 = op ∧ (op ++ a ++ b : BitVec 32).extractLsb' 16 8 = a ∧
    (op ++ a ++ b : BitVec 32).extractLsb' 0 16 = b := by
  refine ⟨?_, ?_, ?_⟩ <;> apply BitVec.eq_of_getLsbD_eq <;> intro k hk <;>
    simp only [BitVec.getLsbD_extractLsb', BitVec.getLsbD_append, hk, decide_true, Bool.true_and]
  · have h1 : ¬ 24 + k < 16 := by omega
    have h2 : ¬ 24 + k - 16 < 8 := by omega
    have h3 : 24 + k - 16 - 8 = k := by omega
    simp only [h1, h2, h3, if_false]
  · have h1 : ¬ 16 + k < 16 := by omega
    have h2 : 16 + k - 16 = k := by omega
    simp only [h1, h2, hk, if_false, if_true]
  · simp only [Nat.zero_add, hk, if_true]

theorem nop : Statement .nop := fields_of_word ..
theorem srst : Statement .srst := fields_of_word ..
theorem dclr : Statement .dclr := fields_of_word ..
theorem hpack : Statement .hpack := fields_of_word ..
theorem hunpk : Statement .hunpk := fields_of_word ..
theorem ser : Statement .ser := fields_of_word ..
theorem seri (cap : BitVec 16) : Statement (.seri cap) := fields_of_word ..
theorem deser : Statement .deser := fields_of_word ..
theorem valid : Statement .valid := fields_of_word ..
theorem enq : Statement .enq := fields_of_word ..
theorem drain : Statement .drain := fields_of_word ..
theorem segm (port : BitVec 3) (cls sd : BitVec 1) (scid : BitVec 10) : Statement (.segm port cls sd scid) :=
  fields_of_word ..
theorem rel (id : BitVec 8) : Statement (.rel id) := fields_of_word ..
theorem hoff (id : BitVec 8) : Statement (.hoff id) := fields_of_word ..
theorem fpend : Statement .fpend := fields_of_word ..
theorem ldf (src : BitVec 2) (idx : BitVec 8) : Statement (.ldf src idx) := fields_of_word ..
theorem nmore : Statement .nmore := fields_of_word ..
theorem accum : Statement .accum := fields_of_word ..
theorem tobits : Statement .tobits := fields_of_word ..
theorem accclr : Statement .accclr := fields_of_word ..

end Sys2Proof.Laws.OpcodeField
end

