-- ==== Sys2Proof/Tests/Slice0.lean ====
section
/-! SUPPORT. The model's tests. Expected values are spec/95_test_vectors.md's (the vector or the rule is named), under the
default parameters of R6. After the tests of single commands stand the witnesses: for every obligation with hypotheses,
states and operands that meet them together, clause by clause. -/

open Sys2Proof Sys2Proof.Machine Sys2Proof.Claim

namespace Sys2Proof.Test

-- The tests are elaborated one after another: side by side, each would hold a thread's stack.
set_option Elab.async false

/-- The state an outcome leaves. -/
def after (o : Host.Outcome State Fault Refusal) : Option State :=
  match o with
  | .next t => some t
  | _ => none

/-- What a test looks at: the outcome is a next state with this STATUS, RESULT and DIAG, and `f` of it is `v`. -/
abbrev ends {α : Type} (o : Host.Outcome State Fault Refusal) (status result diag : Nat) (f : State → α)
    (v : α) : Prop :=
  (after o).map (fun t => (t.status.toNat, t.result.toNat, t.diag.toNat)) = some (status, result, diag) ∧
  (after o).map f = some v

/-- Bytes written from index 0 on. -/
def cells (b : List Byte) : Memory := b.zipIdx.map fun c => (c.2, c.1)

/-- `SETRX` from reset (R103). -/
def received (b : List Byte) : State := { State.reset with rx := cells b, rxLen := BitVec.ofNat 8 b.length }

/-- F as the host writes it, from reset: F_HDRA, F_FSN, F_CTL, then FPAY (R103). -/
def framed (hdra fsn ctl : Word) (b : List Byte) : State :=
  let s := hostWriteReg .fCtl ctl (hostWriteReg .fFsn fsn (hostWriteReg .fHdra hdra State.reset))
  { s with f := { s.f with pay := cells b } }

/-- A small frame: first header word, FSN, tag, segmentation header, payload. -/
def frame (hdra : Word) (fsn : Byte) (frag : Bool) (flag : BitVec 2) (ppid : BitVec 6) (pay : List Byte) : Frame where
  pv := true
  frag := frag
  hdr := headerOf hdra fsn
  seg := { flag := flag, ppid := ppid }
  pay := pay

def data1 : Frame := frame 0x80010001 0 false 0 0 [0xD1]
def command1 : Frame := frame 0x90010001 0 false 0 0 [0xC1]
def fragment1 : Frame := frame 0x84010001 0 true 0 0 [0xF1]

/-- An unfragmented command frame of 251 payload bytes (T2.5.9). -/
def oversize : Frame := frame 0x900100FB 0 false 0 0 (List.replicate 251 0)

/-- The rows of ids 0, 1, 2 with ranges (0,1), (2,2), (3,5), as in state S of section 2.7; id 2 handed off or not. -/
def storedRows (handed : Bool) : List IdEntry :=
  (((List.replicate 255 IdEntry.free).set 0 { alloc := true, handed := false, first := 0, last := 1 }).set 1
    { alloc := true, handed := false, first := 2, last := 2 }).set 2
    { alloc := true, handed := handed, first := 3, last := 5 }

/-- Three stored packets of 2, 1 and 3 frames, like state S of section 2.7 but with payloads of one byte, two frames queued
and 250 bytes of SDU declared. -/
def stored (handed : Bool) : State :=
  { State.reset with
    rb := [frame 0x84010001 0 true 0 0 [0xA0], frame 0x84010001 1 true 2 0 [0xA1], frame 0x80010001 0 false 0 0 [0xB0],
      frame 0x84010001 0 true 0 1 [0xC0], frame 0x84010001 1 true 1 1 [0xC1], frame 0x84010001 2 true 2 1 [0xC2]]
    ids := storedRows handed
    pktCount := 3
    ppid := 2
    mq := [command1, data1]
    ho := [fragment1]
    sduLen := 250
    diag := 0x0110 }

/-- Every id allocated, one frame each, as after 255 SEGMs (T2.6.5). -/
def saturated : State :=
  { State.reset with
    rb := List.replicate 255 data1
    ids := (List.range 255).map fun i => { alloc := true, handed := false, first := i, last := i }
    pktCount := 255 }

/-- Every id but the last allocated. -/
def oneFree : State := { saturated with ids := saturated.ids.set 254 .free }

/-- Every row of the reset state is Free. -/
theorem reset_entry (i : Nat) : State.reset.entry i = .free := entry_resetWith Params.default i

/-- Every id of `saturated` is allocated. -/
theorem saturated_allocated {i : Nat} (h : i < 255) : saturated.allocated i = true := by
  show (List.getD ((List.range 255).map fun i => ⟨true, false, i, i⟩) i IdEntry.free).alloc = _
  rw [List.getD, List.getElem?_map, List.getElem?_range h]
  rfl

/-- Every id of `oneFree` but the last is allocated. -/
theorem oneFree_allocated {i : Nat} (h : i < 255) : oneFree.allocated i = decide (i < 254) := by
  show ((saturated.ids.set 254 IdEntry.free).getD i .free).alloc = _
  rw [getD_set_row _ _ _ _ (by show 254 < ((List.range 255).map _).length; rw [List.length_map, List.length_range]; decide)]
  split
  · rename_i h; rw [h]; rfl
  · exact (saturated_allocated h).trans (by simp; omega)

/-- No id of `saturated` is free. -/
theorem saturated_freeId : saturated.freeId = 255 := by
  rw [State.freeId, leastId_eq_none.2 fun i hi => by rw [saturated_allocated hi]; rfl]
  rfl

/-! ## Legal terms and words -/

theorem test_ldf_source_three_is_ill_formed : Instr.wellFormed (.ldf 3 0) = false := by decide
theorem test_ldf_source_two_is_well_formed : Instr.wellFormed (.ldf 2 255) = true := by decide

/- One word per constructor: op from R95, operands placed by R93; the words are those of the command rules and of
section 2.6.2. -/
theorem test_decode_nop : decode 0x00000000 = .ok .nop := by decide
theorem test_decode_srst : decode 0x01000000 = .ok .srst := by decide
theorem test_decode_dclr : decode 0x02000000 = .ok .dclr := by decide
theorem test_decode_hpack : decode 0x10000000 = .ok .hpack := by decide
theorem test_decode_hunpk : decode 0x11000000 = .ok .hunpk := by decide
theorem test_decode_ser : decode 0x12000000 = .ok .ser := by decide
theorem test_decode_seri : decode 0x13000105 = .ok (.seri 261) := by decide
theorem test_decode_deser : decode 0x14000000 = .ok .deser := by decide
theorem test_decode_valid : decode 0x15000000 = .ok .valid := by decide
theorem test_decode_enq : decode 0x20000000 = .ok .enq := by decide
theorem test_decode_drain : decode 0x21000000 = .ok .drain := by decide
theorem test_decode_segm : decode 0x300502A5 = .ok (.segm 5 0 0 0x2A5) := by decide
theorem test_decode_segm_class : decode 0x30080000 = .ok (.segm 0 1 0 0) := by decide
theorem test_decode_segm_sd : decode 0x30100000 = .ok (.segm 0 0 1 0) := by decide
theorem test_decode_rel : decode 0x31640000 = .ok (.rel 100) := by decide
theorem test_decode_hoff : decode 0x32090000 = .ok (.hoff 9) := by decide
theorem test_decode_fpend : decode 0x33000000 = .ok .fpend := by decide
theorem test_decode_ldf : decode 0x34020003 = .ok (.ldf 2 3) := by decide
theorem test_decode_nmore : decode 0x40000000 = .ok .nmore := by decide
theorem test_decode_accum : decode 0x41000000 = .ok .accum := by decide
theorem test_decode_tobits : decode 0x42000000 = .ok .tobits := by decide
theorem test_decode_accclr : decode 0x43000000 = .ok .accclr := by decide

/- Bit by bit, one word per family: op, then the fields of `a` and `b` from the top (R92, R93). -/
theorem test_bits_system : decode (0b00000010#8 ++ 0b00000000#8 ++ 0b0000000000000000#16 : BitVec 32) = .ok .dclr := by
  decide
theorem test_bits_codec :
    decode (0b00010011#8 ++ 0b00000000#8 ++ 0b1000000000000001#16 : BitVec 32) = .ok (.seri 0x8001) := by decide
theorem test_bits_multiplexer : decode (0b00100001#8 ++ 0b00000000#8 ++ 0b0000000000000000#16 : BitVec 32) = .ok .drain := by
  decide
theorem test_bits_segmentation :
    decode (0b00110000#8 ++ 0b000#3 ++ 1#1 ++ 0#1 ++ 0b110#3 ++ 0b000000#6 ++ 0b1000000001#10 : BitVec 32) =
      .ok (.segm 6 0 1 0x201) := by decide
theorem test_bits_ldf :
    decode (0b00110100#8 ++ 0b000000#6 ++ 0b01#2 ++ 0b00000000#8 ++ 0b10000001#8 : BitVec 32) = .ok (.ldf 1 0x81) := by
  decide
theorem test_bits_reception : decode (0b01000010#8 ++ 0b00000000#8 ++ 0b0000000000000000#16 : BitVec 32) = .ok .tobits := by
  decide

/-- The illegal words of T2.9.1 to T2.9.11, each refused for its own reason. -/
theorem test_illegal_words :
    [0x03000000, 0xFF000000, 0x00000001, 0x12010000, 0x13010005, 0x30200000, 0x30000400, 0x31000001, 0x34030000,
      0x34000100, 0x34040000].map decode =
    [.error (.unassignedOpcode 3), .error (.unassignedOpcode 0xFF), .error (.reservedBit "NOP"), .error (.reservedBit "SER"),
      .error (.reservedBit "SERI"), .error (.reservedBit "SEGM"), .error (.reservedBit "SEGM"), .error (.reservedBit "REL"),
      .error .ldfSourceThree, .error (.reservedBit "LDF"), .error (.reservedBit "LDF")] := by decide

/-- T2.6.2's words, from the commands (R101). -/
theorem test_encode : [encode (.segm 7 1 1 0x3FF), encode (.segm 1 0 0 1), encode (.rel 100), encode (.ldf 1 1)] =
    [0x301F03FF, 0x30010001, 0x31640000, 0x34010001] := by decide

theorem test_decodeTableWord : decodeTableWord 32 0x31640000 = some (.rel 100) := by decide
theorem test_decodeTableWord_cuts : decodeTableWord 8 0xFFFFFF00 = some .nop := by decide

/-! ## Steps -/

/-- T2.5.6 as the first command after reset: DRAIN fails with 4. -/
theorem test_first_command_after_reset :
    ends (step (State.reset.withFetchWord 32 0x21000000)) 4 0 0x10 (·.pending) [] := by decide

/-- R10: nothing left to do. -/
theorem test_run_ends : step State.reset = .fault .runEnded := rfl

/-- T2.9.1: an unassigned opcode, run from reset. -/
theorem test_illegal_command :
    ends (step (State.reset.withFetchWord 32 0x03000000)) 1 0 0x2 (·.o.length) 0 := by decide

/-! ## System commands -/

theorem test_nop : ends (exec .nop { stored true with status := 8, result := 9 }) 0 0 0x0110 (·.pktCount) 3 := by
  decide
theorem test_srst :
    ends (exec .srst (stored true)) 0 0 0
        (fun t => (t.rb.length, t.pktCount, t.ppid.toNat, t.mq.length, t.ids.countP (·.alloc)))
      (0, 0, 0, 0, 0) := by decide +kernel
theorem test_dclr : ends (exec .dclr { State.reset with diag := 0x0110 }) 0 0 0 (·.cfg) 0 := by decide

/-! ## Frame Codec -/

/-- T2.1.21. -/
theorem test_hpack :
    ends (exec .hpack (framed 0xA6A5D0F9 3 0 [])) 0 5 0 (·.o) [0xA6, 0xA5, 0xD0, 0xF9, 0x03] := by decide
/-- T2.1.22. -/
theorem test_hunpk :
    ends (exec .hunpk (received [0x5A, 0x3C, 0x96, 0x0F, 0xF0])) 0 5 0
        (fun t => (hostReadReg .fHdra t, hostReadReg .fFsn t, hostReadReg .fCtl t))
      (0x5A3C960F, 0xF0, 0) := by decide
/-- T2.1.23. -/
theorem test_hunpk_short :
    ends (exec .hunpk (received [0x5A, 0x3C, 0x96, 0x0F])) 9 0 0x0200 (fun t => hostReadReg .fHdra t) 0 := by
  decide
/-- T2.3.2. -/
theorem test_ser :
    ends (exec .ser (framed 0x84010002 2 0x800203 [0xEF, 0x01])) 0 8 0 (·.o)
      [0x84, 0x01, 0x00, 0x02, 0x02, 0x80, 0xEF, 0x01] := by decide
/-- T2.3.7: the tag beats DFC. -/
theorem test_ser_tag :
    ends (exec .ser (framed 0x80010001 0 0x000103 [0xD1])) 0 7 0 (·.o)
      [0x80, 0x01, 0x00, 0x01, 0x00, 0x00, 0xD1] := by decide
/-- T2.3.5. -/
theorem test_seri_too_small :
    ends (exec (.seri 5) { framed 0x80010001 0 0x000101 [0xD1] with o := [1] }) 3 0 0x8 (·.o) [] := by decide
/-- T2.3.5. -/
theorem test_seri_edge :
    ends (exec (.seri 6) (framed 0x80010001 0 0x000101 [0xD1])) 0 6 0 (·.o)
      [0x80, 0x01, 0x00, 0x01, 0x00, 0xD1] := by decide
/-- T2.4.4. -/
theorem test_deser :
    ends (exec .deser (received [0x84, 0x01, 0x00, 0x02, 0x02, 0x80, 0xEF, 0x01])) 0 8 0
        (fun t => (hostReadReg .fHdra t, hostReadReg .fCtl t, t.fpayByte 0, t.fpayByte 1, t.fpayByte 2))
      (0x84010002, 0x800203, 0xEF, 0x01, 0) := by decide +kernel
/-- T2.4.6: a fragmented frame needs byte 5. -/
theorem test_deser_short :
    ends (exec .deser (received [0x84, 0x01, 0x00, 0x00, 0x00])) 9 0 0x0200 (fun t => hostReadReg .fCtl t) 0 := by
  decide
/-- T2.4.18. -/
theorem test_valid : ends (exec .valid (framed 0x80000000 0 1 [])) 0 1 0 (·.draws) 1 := by decide
/-- T2.4.11. -/
theorem test_valid_version : ends (exec .valid (framed 0x40010001 0 0x101 [0xAA])) 0 0 0 (·.draws) 1 := by decide

/-! ## Transmit Multiplexer -/

/-- T2.5.4: the command goes before the data frame, ahead of the fragment behind it. -/
theorem test_enq_command :
    ends (exec .enq { framed 0x90010001 0 0x101 [0xC1] with mq := [fragment1, fragment1, data1, fragment1] }) 0 2 0 (·.mq)
      [fragment1, fragment1, command1, data1, fragment1] := by decide
/-- T2.5.4: a fragment with PDU_ID = PDU_CMD appends. -/
theorem test_enq_fragment :
    ends (exec .enq { framed 0x94010001 0 0x103 [0xCF] with mq := [data1] }) 0 1 0 (fun t => t.mq.map (·.frag))
      [false, true] := by decide
/-- R144's example. -/
theorem test_drain :
    ends (exec .drain { State.reset with mq := [command1, data1] }) 0 6 0 (fun t => (t.tx, t.mq))
      ([0x90, 0x01, 0x00, 0x01, 0x00, 0xC1], [data1]) := by decide
/-- T2.5.9: the oversize head stays. -/
theorem test_drain_oversize :
    ends (exec .drain { State.reset with mq := [oversize, command1], tx := [1] }) 3 0 0x8 (fun t => (t.tx, t.mq.length))
      ([], 2) := by decide +kernel

/-! ## Segmentation and Reassembly Buffer -/

/-- R160's example. -/
theorem test_segm :
    ends (exec (.segm 5 0 0 0x2A5) { State.reset with sduLen := 500 }) 0 0 0
        (fun t => (t.rb.map (fun g => packSeg g.seg), t.rb.map (·.hdr.fsn), t.rb.map (·.pay.length),
          t.rb.map (fun g => hdraOf g.hdr), rangeWord (t.entry 0)))
      ([0x00, 0x40, 0x80], [0, 1, 2], [249, 249, 2], [0x86A550F9, 0x86A550F9, 0x86A55002], 0x10200) := by decide +kernel
/-- T2.6.3, the fast path. -/
theorem test_segm_fast :
    ends (exec (.segm 7 1 1 0x3FF) { State.reset with sdu := cells [0x0A, 0x0B, 0x0C], sduLen := 3, cfg := 3 }) 0 0 0
        (fun t => (t.rb.flatMap serBytes, t.ppid, rangeWord (t.entry 0)))
      ([0xB3, 0xFF, 0xF8, 0x03, 0x00, 0x0A, 0x0B, 0x0C], 0, 0x10000) := by decide +kernel
/-- T2.7.4. -/
theorem test_rel :
    ends (exec (.rel 1) (stored false)) 0 1 0x0110
        (fun t => (rangeWord (t.entry 0), rangeWord (t.entry 1), rangeWord (t.entry 2), t.rb.flatMap (·.pay), t.pktCount))
      (0x10100, 0, 0x10402, [0xA0, 0xA1, 0xC0, 0xC1, 0xC2], 2) := by decide +kernel
/-- T2.7.5. -/
theorem test_rel_invalid : ends (exec (.rel 255) (stored false)) 8 0 0x0110 (·.pktCount) 3 := by decide +kernel
/-- T2.7.2. -/
theorem test_hoff :
    ends (exec (.hoff 2) (stored false)) 0 3 0x0110 (fun t => (t.ho.flatMap (·.pay), t.rb.length, rangeWord (t.entry 2)))
      ([0xC0, 0xC1, 0xC2], 6, 0x30503) := by decide +kernel
/-- T2.7.3. -/
theorem test_hoff_invalid : ends (exec (.hoff 9) (stored false)) 8 0 0x0110 (·.ho) [] := by decide +kernel
/-- P4's last FPEND: id 1 has range (3,3) and id 2 has (0,2). -/
theorem test_fpend :
    let rows := State.reset.ids.set 1 { alloc := true, handed := false, first := 3, last := 3 }
    ends (exec .fpend { State.reset with ids := rows.set 2 { alloc := true, handed := false, first := 0, last := 2 } }) 0 2 0
      (·.pktCount) 0 := by decide +kernel
/-- T2.7.7. -/
theorem test_fpend_empty : ends (exec .fpend State.reset) 11 255 0x0800 (·.pktCount) 0 := by
  have h : leastId (fun i => State.reset.allocated i && decide ((State.reset.entry i).first = 0)) = none :=
    leastId_eq_none.2 fun i _ => by rw [State.allocated, reset_entry]; rfl
  simp only [exec, execFpend, h]
  decide
/-- LDF of a fragment (R171). -/
theorem test_ldf :
    ends (exec (.ldf 0 4) (stored false)) 0 1 0x0110
        (fun t => (hostReadReg .fCtl t, hostReadReg .fFsn t, t.fpayByte 0, t.fpayByte 254))
      (0x410103, 1, 0xC1, 0) := by decide +kernel
/-- T2.7.6: the index is at the length. -/
theorem test_ldf_bad_index : ends (exec (.ldf 0 6) (stored false)) 12 0 0x1110 (·.f.pv) false := by decide

/-! ## Reception -/

/-- T2.8.1: SF_MIDDLE, the payload absent. -/
theorem test_nmore : ends (exec .nmore (framed 0 0 0x400002 [])) 0 1 0 (·.draws) 1 := by decide
/-- T2.8.1: SF_LAST. -/
theorem test_nmore_last : ends (exec .nmore (framed 0 0 0x800003 [])) 0 0 0 (·.draws) 1 := by decide
/-- T2.8.3: FIRST does not clear. -/
theorem test_accum :
    ends (exec .accum { framed 0x84010002 0 0x000203 [0xDE, 0xAD] with acc := [1, 2, 3] }) 0 5 0 (·.acc)
      [1, 2, 3, 0xDE, 0xAD] := by decide
/-- T2.8.2: an unfragmented frame replaces. -/
theorem test_accum_replaces :
    ends (exec .accum { framed 0x80010001 0 0x000101 [0xD1] with acc := [1, 2, 3] }) 0 1 0 (·.acc) [0xD1] := by
  decide
/-- T2.8.4. -/
theorem test_tobits :
    ends (exec .tobits { State.reset with acc := [0x80, 0x01, 0x3C] }) 0 24 0
        (fun t => (t.bits.map Bool.toNat, t.acc))
      ([1,0,0,0,0,0,0,0, 0,0,0,0,0,0,0,1, 0,0,1,1,1,1,0,0], []) := by decide
/-- T2.8.6: bits beyond 8192 are lost, the accumulator is emptied. -/
theorem test_tobits_truncates :
    ends (exec .tobits { State.reset with acc := List.replicate 1025 0xFF }) 0 8192 0 (fun t => (t.bits.length, t.acc))
      (8192, []) := by decide +kernel
/-- T2.8.8. -/
theorem test_accclr : ends (exec .accclr { State.reset with acc := [1], bits := [true] }) 0 0 0 (fun t => (t.acc, t.bits))
      ([], [true]) := by decide

/-! ## Host accesses -/

/-- T2.9.14 and R205: a read-only register is not written; F_CTL bits 7:2 are not stored. -/
theorem test_host_writes :
    (hostReadReg .ppid (hostWriteReg .ppid 9 State.reset), hostReadReg .fCtl (hostWriteReg .fCtl 0xFFFFFFFF State.reset)) =
      (0, 0x00FFFF03) := by decide

/-! ## Witnesses: the hypotheses of every obligation are met, clause by clause -/

/-- An outcome whose state is there and meets `Q` is a next state that meets `Q`. -/
theorem exists_next {o : Host.Outcome State Fault Refusal} (Q : State → Prop) [DecidablePred Q]
    (h : (after o).any (fun t => decide (Q t)) = true) : ∃ t, o = .next t ∧ Q t := by
  cases o with
  | next t => exact ⟨t, rfl, by simpa [after] using h⟩
  | fault _ => cases h
  | refused _ => cases h

/-- From reset, one action to come. -/
def waiting (a : HostAction) : State := { State.reset with pending := [a] }

/-- As `framed`, with ACC_CAP = 255 and 250 bytes accumulated (T2.8.7). -/
def accumulating (ctl : Word) : State :=
  { framed 0x84010000 0 ctl [] with params := { Params.default with accCap := 255 }, acc := List.replicate 250 0xAA }

/-- The rows of `stored`, by id. -/
theorem stored_entry (b : Bool) (i : Nat) :
    (stored b).entry i =
      if i = 2 then { alloc := true, handed := b, first := 3, last := 5 }
      else if i = 1 then { alloc := true, handed := false, first := 2, last := 2 }
      else if i = 0 then { alloc := true, handed := false, first := 0, last := 1 }
      else .free := by
  show (storedRows b).getD i .free = _
  unfold storedRows
  have h : ∀ {i : Nat}, i < 3 → i < (List.replicate 255 IdEntry.free).length := fun hi => by
    rw [List.length_replicate]; omega
  rw [getD_set_row, getD_set_row, getD_set_row, getD_replicate_free] <;> (repeat rw [List.length_set]) <;>
    exact h (by decide)

/-- The ids allocated in `stored`. -/
theorem stored_allocated {b : Bool} {i : Nat} (h : (stored b).allocated i = true) : i = 0 ∨ i = 1 ∨ i = 2 := by
  rw [State.allocated, stored_entry] at h
  by_contra hn
  obtain ⟨h0, h1, h2⟩ : i ≠ 0 ∧ i ≠ 1 ∧ i ≠ 2 := by omega
  simp [h0, h1, h2, IdEntry.free] at h

/-- `stored` meets R42 to R46. -/
theorem stored_index (b : Bool) : IdIndexInv (stored b) where
  size := by
    show (storedRows b).length = _
    simp only [storedRows, List.length_set, List.length_replicate, idCount]
  inRange := fun i _ h => by
    rcases stored_allocated h with rfl | rfl | rfl <;> rw [stored_entry] <;> simp [stored]
  disjoint := fun i _ j _ hij hi hj => by
    rcases stored_allocated hi with rfl | rfl | rfl <;> rcases stored_allocated hj with rfl | rfl | rfl <;>
      simp [stored_entry] at hij ⊢
  covered := fun k hk => by
    have hk6 : k < 6 := hk
    by_cases h0 : k < 2
    · exact ⟨0, by decide, by rw [State.allocated, stored_entry]; rfl, by rw [stored_entry]; simp; omega⟩
    · by_cases h1 : k < 3
      · exact ⟨1, by decide, by rw [State.allocated, stored_entry]; rfl, by rw [stored_entry]; simp; omega⟩
      · exact ⟨2, by decide, by rw [State.allocated, stored_entry]; rfl, by rw [stored_entry]; simp; omega⟩
  freeRow := fun i _ h => by
    rw [State.allocated, stored_entry] at h
    rw [stored_entry]
    split at h
    · cases h
    · split at h
      · cases h
      · split at h
        · cases h
        · rename_i h2 h1 h0
          simp [h0, h1, h2]
  counted := by cases b <;> decide +kernel
  capacity := by simp [stored]

/-- `stored` meets the whole invariant, whatever is pending. -/
theorem stored_inv (b : Bool) (l : List HostAction) : ({ stored b with pending := l } : State).Inv where
  params := by show (stored b).params.wf; cases b <;> decide
  index := ⟨(stored_index b).size, (stored_index b).inRange, (stored_index b).disjoint, (stored_index b).covered,
    (stored_index b).freeRow, (stored_index b).counted, (stored_index b).capacity⟩
  buffers :=
    have h : BuffersInv (stored b) := by constructor <;> cases b <;> decide
    ⟨h.mq, h.tx, h.o, h.acc, h.bits, h.bitsWhole, h.ho⟩
  frames :=
    have h : FramesInv (stored b) := by constructor <;> cases b <;> decide
    ⟨h.rb, h.ho, h.mq⟩
  spaces := ⟨Memory.wf_nil _, Memory.wf_nil _, Memory.wf_nil _⟩
  status := ⟨(by decide : (0#8).toNat ≤ 12), fun k hk => by
    show (0x0110#16).getLsbD k = false
    by_cases h16 : k < 16
    · interval_cases k <;> first | decide | omega
    · exact BitVec.getLsbD_of_ge _ _ (Nat.le_of_not_lt h16)⟩
  order := by show CommandsAhead (stored b).params (stored b).mq; cases b <;> decide

/-- The reset state meets R42 to R46: an empty index. -/
theorem reset_index : IdIndexInv State.reset where
  size := List.length_replicate
  inRange := fun i _ h => by rw [State.allocated, State.reset, entry_resetWith] at h; cases h
  disjoint := fun i _ _ _ _ h => by rw [State.allocated, State.reset, entry_resetWith] at h; cases h
  covered := fun k hk => absurd hk (Nat.not_lt_zero k)
  freeRow := fun i _ _ => entry_resetWith _ i
  counted := by decide +kernel
  capacity := Nat.zero_le _

theorem test_witness_DecodeOfEncodeIsTheCommand :
    Instr.wellFormed (.segm 7 1 1 0x3FF) = true ∧ Instr.wellFormed (.ldf 2 255) = true := by decide

theorem test_witness_EncodeOfDecodeIsTheWord : decode 0x301F03FF = .ok (.segm 7 1 1 0x3FF) := by decide

theorem test_witness_IllegalWordsFailWithoutEffect :
    illegalWord 0xFF000000 ∧ illegalWord 0x00800000 ∧ illegalWord 0x30000400 ∧ illegalWord 0x34030000 ∧
    (waiting (.writeReg .cmd 0xFF000000)).pending = .writeReg .cmd 0xFF000000 :: [] :=
  ⟨.inl rfl, .inr (.inl ⟨_, rfl, 23, by decide, by decide⟩), .inr (.inl ⟨_, rfl, 10, by decide, by decide⟩),
    .inr (.inr (by decide)), rfl⟩

theorem test_witness_StepRunsTheDecodedCommand :
    (waiting (.writeReg .cmd 0x31640000)).pending = .writeReg .cmd 0x31640000 :: [] ∧
    decode 0x31640000 = .ok (.rel 100) := ⟨rfl, by decide⟩

theorem test_witness_RunIsTheFoldOfTheActions :
    ∃ t, (waiting (.readReg .diag)).pending = [.readReg .diag] ∧
      t = [HostAction.readReg .diag].foldl transition (apart (waiting (.readReg .diag))) := ⟨_, rfl, rfl⟩

theorem test_witness_FailedCommandChangesNothingElse :
    (∃ t, exec .drain State.reset = .next t ∧ t.status ≠ 0) ∧
    (∃ t, exec (.hoff 9) (stored true) = .next t ∧ t.status ≠ 0) ∧
    ∃ t, exec .hpack (stored true) = .next t ∧ t.status = 0 :=
  ⟨exists_next (fun t => t.status ≠ 0) (by decide), exists_next (fun t => t.status ≠ 0) (by decide +kernel),
    exists_next (fun t => t.status = 0) (by decide)⟩

theorem test_witness_CommandsEndWithTheirCodes :
    Instr.wellFormed (.rel 255) = true ∧ ∃ t, exec (.rel 255) State.reset = .next t ∧ t.status = 8 :=
  ⟨by decide, exists_next (fun t => t.status = 8) (by decide)⟩

theorem test_witness_DiagBitsAreSticky :
    (∃ t, perform (.writeReg .cmd 0x21000000) State.reset = .next t ∧ t.status ≠ 0 ∧ t.diag.getLsbD 4 = true) ∧
    (∃ t, perform (.writeReg .cmd 0x02000000) (stored true) = .next t ∧ (stored true).diag.getLsbD 8 = true) ∧
    (stored true).diag.getLsbD 0 = false ∧ (stored true).diag.getLsbD 14 = false :=
  ⟨exists_next (fun t => t.status ≠ 0 ∧ t.diag.getLsbD 4 = true) (by decide),
    exists_next (fun _ => (stored true).diag.getLsbD 8 = true) (by decide), by decide⟩

theorem test_witness_StateHasOnlyItsNamedWriters :
    (∃ t, exec .hunpk (received [1, 2, 3, 4, 5]) = .next t ∧ t.status = 0) ∧
    (∃ t, exec .enq (framed 0x80010001 0 0x101 [0xD1]) = .next t ∧ t.status = 0) ∧
    ∃ t, exec (.hoff 2) (stored false) = .next t ∧ t.status = 0 :=
  ⟨exists_next (fun t => t.status = 0) (by decide), exists_next (fun t => t.status = 0) (by decide),
    exists_next (fun t => t.status = 0) (by decide +kernel)⟩

theorem test_witness_ParametersNeverChange : ∃ t, step (waiting .hardwareReset) = .next t ∧ t.status = 0 :=
  exists_next (fun t => t.status = 0) (by decide)

theorem test_witness_EveryStepKeepsTheInvariant :
    let s : State := { stored false with pending := [.writeReg .cmd 0x31010000] }
    s.Inv ∧ ∃ t, step s = .next t ∧ t.rb.length = 5 :=
  ⟨stored_inv false _, exists_next (fun t => t.rb.length = 5) (by decide +kernel)⟩

theorem test_witness_ResetMeetsTheInvariant :
    Params.default.wf ∧ { Params.default with sfFirst := 1, sfMiddle := 0, accCap := 255 }.wf := by decide

theorem test_witness_CommandsKeepTheIdIndex :
    IdIndexInv (stored true) ∧ ∃ t, exec (.rel 1) (stored true) = .next t ∧ t.status = 0 :=
  ⟨stored_index true, exists_next (fun t => t.status = 0) (by decide +kernel)⟩

theorem test_witness_SerializedFormAndLength :
    (frame 0x84010000 0 true 0 0 (List.replicate 255 0)).pay.length ≤ 255 :=
  Nat.le_of_eq List.length_replicate

theorem test_witness_ParseFollowsTheHeader :
    let long : List Byte := [0x80, 0x01, 0x00, 0x01, 0x00, 0xD1]
    [0x80#8, 0x01#8, 0x00#8, 0x01#8].length < 5 ∧
    (5 ≤ [0x84#8, 0x01#8, 0x00#8, 0x00#8, 0x00#8].length ∧ [0x84#8, 0x01#8, 0x00#8, 0x00#8, 0x00#8].length < 6 + 0) ∧
    5 ≤ long.length ∧ 5 + (long.getD 3 0).toNat ≤ long.length ∧ (unpackHdr long).dfc ≠ Params.default.dfcFrag := by decide

theorem test_witness_SerializeParseRoundTrip :
    fragment1.wellFormed Params.default ∧ data1.wellFormed Params.default ∧
    parse Params.default [0x80, 0x01, 0x00, 0x01, 0x00, 0xD1] = some (frame 0x80010001 0 false 0 0 [0xD1], 6) ∧
    ∃ t u v : State, (frameOfF (framed 0x84010002 2 0x800203 [0xEF, 0x01])).wellFormed Params.default ∧
      exec .ser (framed 0x84010002 2 0x800203 [0xEF, 0x01]) = .next t ∧
      u = { t with rx := t.o.zipIdx.map (fun c => (c.2, c.1)), rxLen := BitVec.ofNat 8 t.o.length } ∧
      exec .deser u = .next v :=
  ⟨by decide, by decide, by decide, _, _, _, by decide, rfl, rfl, rfl⟩

theorem test_witness_HunpkReadsTheHeader :
    5 ≤ (received [1, 2, 3, 4, 5]).rxLen.toNat ∧ (received [1, 2, 3, 4]).rxLen.toNat < 5 := by decide

theorem test_witness_SerSerializesF : (framed 0 0 1 []).f.pv = true ∧ State.reset.f.pv = false := by decide

theorem test_witness_SeriRespectsTheCapacity :
    let s := framed 0x80010001 0 0x000101 [0xD1]
    s.f.pv = true ∧ serLen (frameOfF s) ≤ (6#16).toNat ∧ (5#16).toNat < serLen (frameOfF s) ∧ State.reset.f.pv = false := by
  decide

theorem test_witness_DeserLoadsTheParsedFrame :
    (∃ g k, parse Params.default ((List.range 6).map (received [0x80, 0x01, 0x00, 0x01, 0x00, 0xD1]).rxByte) = some (g, k)) ∧
    parse Params.default ((List.range 5).map (received [0x84, 0x01, 0x00, 0x00, 0x00]).rxByte) = none :=
  ⟨⟨_, _, rfl⟩, by decide⟩

theorem test_witness_InsertionPositionFollowsTheClass :
    let mq := [fragment1, data1, fragment1]
    frameClass Params.default fragment1 ≠ .command ∧ frameClass Params.default data1 ≠ .command ∧
    frameClass Params.default command1 = .command ∧ mq[0]? = some fragment1 ∧ 0 < insPos Params.default command1 mq ∧
    mq[insPos Params.default command1 mq]? = some data1 := by decide

theorem test_witness_EnqInsertsAtItsPosition :
    let s := framed 0x80010001 0 0x000101 [0xD1]
    let last : State := { s with mq := List.replicate 254 data1 }
    let full : State := { s with mq := List.replicate 255 data1 }
    (last.f.pv = true ∧ last.mq.length < 255) ∧ State.reset.f.pv = false ∧ full.f.pv = true ∧ full.mq.length = 255 := by
  decide +kernel

theorem test_witness_DrainSendsTheHead :
    State.reset.mq = [] ∧ { data1 with pv := false }.pv = false ∧ (oversize.pv = true ∧ 255 < serLen oversize) ∧
    (data1.pv = true ∧ serLen { data1 with pay := List.replicate 250 0 } ≤ 255) ∧
    (stored true).mq = command1 :: [data1] := by decide +kernel

theorem test_witness_OversizeHeadBlocksTheQueue :
    let s : State := { State.reset with mq := [oversize] }
    s.mq.head? = some oversize ∧ oversize.pv = true ∧ 255 < serLen oversize ∧
    (∃ t, exec .drain s = .next t ∧ t.status = 3) ∧ ∃ t, exec .enq s = .next t ∧ t.status = 2 :=
  ⟨rfl, rfl, by decide +kernel, exists_next (fun t => t.status = 3) (by decide +kernel),
    exists_next (fun t => t.status = 2) (by decide +kernel)⟩

theorem test_witness_QueueKeepsTheOrderWithinAClass :
    CommandsAhead Params.default (stored true).mq ∧ (∃ t, exec .drain (stored true) = .next t ∧ t.status = 0) ∧
    let s : State := { framed 0x90010001 0 0x101 [0xC1] with mq := [fragment1, data1] }
    CommandsAhead s.params s.mq ∧ ∃ t, exec .enq s = .next t ∧ t.status = 0 :=
  ⟨by decide, exists_next (fun t => t.status = 0) (by decide), by decide, exists_next (fun t => t.status = 0) (by decide)⟩

theorem test_witness_FreeIdIsTheLeastFree :
    (∀ i < 255, saturated.allocated i = true) ∧
    (oneFree.allocated 254 = false ∧ ∀ j < 254, oneFree.allocated j = true) ∧ State.reset.allocated 0 = false :=
  ⟨fun _ h => saturated_allocated h, ⟨oneFree_allocated (by decide),
    fun j h => (oneFree_allocated (by omega)).trans (by simp [h])⟩, by rw [State.allocated, reset_entry]; rfl⟩

theorem test_witness_FragmentCountAndSizes : 249 ≤ 249 ∧ 249 < 250 ∧ 1 + 1 < fragCount 499 := by decide

theorem test_witness_SegFlagSequence : 1 < 3 ∧ 1 ≠ 0 ∧ 1 ≠ 3 - 1 ∧ fragmented 250 = true := by decide

theorem test_witness_SegmAppendsTheFragments :
    (let s : State := { State.reset with sduLen := 63495 }
     s.freeId ≠ 255 ∧ s.rb.length + fragments s.sduLen.toNat ≤ 255) ∧
    saturated.freeId = 255 ∧
    let s : State := { State.reset with sduLen := 63496 }
    s.freeId ≠ 255 ∧ 255 < s.rb.length + fragments s.sduLen.toNat :=
  ⟨by decide +kernel, saturated_freeId, by decide +kernel⟩

theorem test_witness_SegmIsAllOrNothing :
    (stored true).ids.length = 255 ∧ saturated.ids.length = 255 ∧
    (∃ t, exec (.segm 1 0 0 1) (stored true) = .next t ∧ t.status = 0) ∧
    ∃ t, exec (.segm 1 0 0 1) saturated = .next t ∧ t.status ≠ 0 :=
  ⟨by decide +kernel, by decide +kernel, exists_next (fun t => t.status = 0) (by decide +kernel),
    fail .noFreeId 255 saturated, by simp only [exec, execSegm, saturated_freeId]; rfl, statusOf_ne_zero (by decide)⟩

theorem test_witness_FragmentPayloadsMakeTheSdu :
    (∃ t, exec (.segm 1 0 0 1) State.reset = .next t ∧ t.status = 0) ∧
    ∃ t, exec (.segm 1 0 0 1) (stored true) = .next t ∧ t.status = 0 :=
  ⟨exists_next (fun t => t.status = 0) (by decide +kernel), exists_next (fun t => t.status = 0) (by decide +kernel)⟩

theorem test_witness_BuiltFramesAreWellFormed :
    (stored true).params.wf ∧ ∃ t, exec (.segm 1 0 0 1) (stored true) = .next t ∧
      t.status = 0 ∧ ((t.rb.drop (stored true).rb.length)[1]?).isSome = true :=
  ⟨by decide, exists_next (fun t => t.status = 0 ∧ ((t.rb.drop (stored true).rb.length)[1]?).isSome = true)
    (by decide +kernel)⟩

theorem test_witness_PpidAdvancesOnlyByFragmentingSegm :
    (∃ t, perform (.writeReg .cmd 0x30010001) (stored true) = .next t ∧ t.ppid ≠ (stored true).ppid) ∧
    ∃ t, perform (.writeReg .cmd 0x01000000) (stored true) = .next t ∧ t.ppid ≠ (stored true).ppid :=
  ⟨exists_next (fun t => t.ppid ≠ (stored true).ppid) (by decide +kernel),
    exists_next (fun t => t.ppid ≠ (stored true).ppid) (by decide +kernel)⟩

theorem test_witness_IdsAreGivenOutInOrder :
    (State.reset.ids.length = 255 ∧ (∀ i < 255, State.reset.allocated i = decide (i < 0)) ∧ State.reset.rb.length = 0 ∧
      State.reset.sduLen.toNat ≤ 249) ∧
    saturated.ids.length = 255 ∧ (∀ i < 255, saturated.allocated i = decide (i < 255)) ∧ saturated.rb.length = 255 ∧
      saturated.sduLen.toNat ≤ 249 :=
  ⟨⟨by decide +kernel, fun i _ => by rw [State.allocated, reset_entry]; rfl, rfl, by decide⟩, by decide +kernel,
    fun i h => (saturated_allocated h).trans (by simp [h]), List.length_replicate, by decide⟩

theorem test_witness_RelRemovesTheRunAndRebases :
    ((254#8).toNat < 255 ∧ saturated.allocated (254#8).toNat = true) ∧ (stored true).allocated (1#8).toNat = true ∧
    254 < (255#8).toNat ∧ (stored true).allocated (3#8).toNat = false := by decide +kernel

theorem test_witness_RelKeepsEveryOtherPacket :
    IdIndexInv (stored true) ∧ (∃ t, exec (.rel 0) (stored true) = .next t ∧ t.status = 0) ∧
    (stored true).allocated 2 = true :=
  ⟨stored_index true, exists_next (fun t => t.status = 0) (by decide +kernel), by decide +kernel⟩

theorem test_witness_InvalidIdChangesNothing :
    (255#8).toNat = 255 ∧ State.reset.allocated (254#8).toNat = false ∧
    ∃ t, exec (.rel 2) (stored true) = .next t ∧ t.status = 0 :=
  ⟨rfl, by decide +kernel, exists_next (fun t => t.status = 0) (by decide +kernel)⟩

theorem test_witness_HoffCopiesThePacket :
    ((254#8).toNat < 255 ∧ saturated.allocated (254#8).toNat = true) ∧ 254 < (255#8).toNat ∧
    (stored true).allocated (3#8).toNat = false := by decide +kernel

theorem test_witness_FpendFindsTheOldestPacket :
    ((stored true).allocated 0 = true ∧ ((stored true).entry 0).first = 0) ∧
    (∀ i < 255, ¬(State.reset.allocated i = true ∧ (State.reset.entry i).first = 0)) ∧
    (IdIndexInv State.reset ∧ State.reset.rb = []) ∧ IdIndexInv (stored true) ∧ (stored true).rb ≠ [] :=
  ⟨by decide +kernel, fun i _ h => (by rw [State.allocated, reset_entry] at h; exact nomatch h.1), ⟨reset_index, rfl⟩,
    stored_index true, by decide⟩

theorem test_witness_LdfCopiesAStoredFrame :
    saturated.rb[(254#8).toNat]? = some data1 ∧ saturated.rb.length ≤ (255#8).toNat ∧
    (stored true).ho[(0#8).toNat]? = some fragment1 ∧ (stored true).ho.length ≤ (1#8).toNat ∧
    (stored true).mq[(1#8).toNat]? = some data1 ∧ (stored true).mq.length ≤ (2#8).toNat := by decide +kernel

theorem test_witness_PacketIdLifecycle :
    IdIndexInv (stored true) ∧ IdIndexInv (stored false) ∧
    (∃ t, exec (.segm 1 0 0 1) (stored true) = .next t ∧ (stored true).allocated 3 = false ∧ t.allocated 3 = true) ∧
    (∃ t, exec (.hoff 2) (stored false) = .next t ∧ ((stored false).entry 2).handed = false ∧
      (t.entry 2).handed = true) ∧
    ∃ t, exec (.rel 2) (stored true) = .next t ∧ ((stored true).entry 2).handed = true ∧ (t.entry 2).handed = false ∧
      (stored true).allocated 2 = true ∧ t.allocated 2 = false :=
  ⟨stored_index true, stored_index false,
    exists_next (fun t => (stored true).allocated 3 = false ∧ t.allocated 3 = true) (by decide +kernel),
    exists_next (fun t => ((stored false).entry 2).handed = false ∧ (t.entry 2).handed = true) (by decide +kernel),
    exists_next (fun t => ((stored true).entry 2).handed = true ∧ (t.entry 2).handed = false ∧
      (stored true).allocated 2 = true ∧ t.allocated 2 = false) (by decide +kernel)⟩

theorem test_witness_NmoreReadsTagAndFlag : State.reset.params.wf := by decide

theorem test_witness_AccumReplacesOrAppends :
    State.reset.f.pv = false ∧ ((framed 0 0 1 []).f.pv = true ∧ (framed 0 0 1 []).f.frag = false) ∧
    (∃ s, s = accumulating 0x000503 ∧ s.f.pv = true ∧ s.f.frag = true ∧
      s.acc.length + (frameOfF s).pay.length ≤ s.params.accCap) ∧
    let s := accumulating 0x000603
    s.f.pv = true ∧ s.f.frag = true ∧ s.params.accCap < s.acc.length + (frameOfF s).pay.length := by
  simp only [frameOfF_pay_length]
  exact ⟨rfl, ⟨rfl, rfl⟩, ⟨_, rfl, rfl, rfl, by decide +kernel⟩, by decide +kernel⟩

theorem test_witness_BitExpansionIsMsbFirst : [0xA5#8][0]? = some 0xA5#8 ∧ 7 < 8 := by decide

theorem test_witness_TobitsAndAccclrEmptyAcc :
    let s : State := { State.reset with acc := List.replicate 1025 0xFF }
    s.acc[1023]? = some 0xFF ∧ 1023 < 1024 := by decide +kernel

theorem test_witness_HostReadsReturnTheRegisters :
    (waiting (.readReg .fCtl)).pending = .readReg .fCtl :: [] ∧ (stored true).Inv := ⟨rfl, stored_inv true []⟩

theorem test_witness_PackedRegisterLayouts :
    let e : IdEntry := { alloc := true, handed := true, first := 255, last := 255 }
    e.first < 256 ∧ e.last < 256 := by decide

theorem test_witness_HostRegisterWritesReadBack :
    (writeMask .fCtl = some 0x00FFFF03 ∧ writeMask .sduLen = some 0xFFFF) ∧ writeMask .ppid = none ∧ Reg.cfg ≠ Reg.cmd ∧
    (waiting (.writeReg .cfg 7)).pending = .writeReg .cfg 7 :: [] := by decide

theorem test_witness_HostSpaceWritesStoreOneByte :
    (waiting (.writeSpace .fpay 254 0x1FF)).pending = .writeSpace .fpay 254 0x1FF :: [] ∧
    (waiting (.writeSpace .sdu 65535 1)).pending = .writeSpace .sdu 65535 1 :: [] := by decide

theorem test_witness_HostSpaceReadsReturnTheElement :
    let s : State := { waiting (.readSpace .rx 254) with
      f := { FrameReg.empty with pay := [(254, 1)] }, rx := [(254, 2)], sdu := [(65534, 3)], o := List.replicate 261 4,
      tx := List.replicate 255 5, acc := List.replicate 255 6, bits := List.replicate 8192 true,
      params := { Params.default with accCap := 255 } }
    s.pending = .readSpace .rx 254 :: [] ∧ Memory.read s.f.pay 254 = some 1 ∧ Memory.read s.rx 254 = some 2 ∧
    Memory.read s.sdu 65534 = some 3 ∧ s.o[260]? = some 4 ∧ s.tx[254]? = some 5 ∧
    (254 < s.params.accCap ∧ s.acc[254]? = some 6) ∧ s.bits[8191]? = some true :=
  ⟨rfl, rfl, rfl, rfl, by decide +kernel, by decide +kernel, by decide +kernel,
    List.getElem?_replicate.trans (if_pos (by decide))⟩

end Sys2Proof.Test
end

section
/-! SUPPORT. The packed host registers of R41 and R73 as sums of their fields. -/

namespace Sys2Proof.Machine

/-- The value of a concatenation: the upper part shifted by the lower part's width, plus the lower part. -/
theorem toNat_append_eq_add {n m : Nat} (x : BitVec n) (y : BitVec m) :
    (x ++ y).toNat = x.toNat * 2 ^ m + y.toNat := by
  rw [BitVec.toNat_append, ← Nat.shiftLeft_add_eq_or_of_lt y.isLt, Nat.shiftLeft_eq]

/-- F_CTL is its five fields at bits 0, 1, 15:8, 21:16 and 23:22 (R41). -/
theorem ctlOf_toNat (f : FrameReg) :
    (ctlOf f).toNat =
      f.pv.toNat + 2 * f.frag.toNat + 2 ^ 8 * f.plen.toNat + 2 ^ 16 * f.seg.ppid.toNat + 2 ^ 22 * f.seg.flag.toNat := by
  simp only [ctlOf, toNat_append_eq_add, BitVec.toNat_ofBool, BitVec.toNat_ofNat]
  omega

/-- F_HDRA is the first four header bytes, the first one uppermost (R73). -/
theorem hdraOf_toNat (h : Header) :
    (hdraOf h).toNat =
      h.byte0.toNat * 2 ^ 24 + h.byte1.toNat * 2 ^ 16 + h.byte2.toNat * 2 ^ 8 + h.byte3.toNat := by
  simp only [hdraOf, toNat_append_eq_add]
  omega

/-- A RANGE word is start, end, ALLOC and HOFF at bits 7:0, 15:8, 16 and 17, when start and end fit a byte (R41). -/
theorem rangeWord_toNat (e : IdEntry) (hfirst : e.first < 256) (hlast : e.last < 256) :
    (rangeWord e).toNat = e.first + 2 ^ 8 * e.last + 2 ^ 16 * e.alloc.toNat + 2 ^ 17 * e.handed.toNat := by
  simp only [rangeWord, BitVec.toNat_setWidth_of_le (show 18 ≤ 32 by decide), toNat_append_eq_add,
    BitVec.toNat_ofBool, BitVec.toNat_ofNat]
  omega

/-- Settles O57: each register is a concatenation of its fields, and a concatenation is a sum. -/
theorem packedRegisterLayouts : Obligations.PackedRegisterLayouts := by
  refine ⟨fun s => ?_, fun s => hdraOf_toNat s.f.hdr, fun e => rangeWord_toNat e⟩
  exact (BitVec.toNat_setWidth_of_le (by decide)).trans (ctlOf_toNat s.f)

end Sys2Proof.Machine
end

section
/-! SUPPORT. RB and the packet-id index under the commands: all a command can do to them, and that each of those changes
keeps the index sound (R42 to R46) and moves an id along R48's cycle only. -/

namespace Sys2Proof.Machine

/-- RB, the packet-id index and PKT_COUNT are in `t` as they are in `s`. -/
structure SameIndex (s t : State) : Prop where
  rb : t.rb = s.rb
  ids : t.ids = s.ids
  pktCount : t.pktCount = s.pktCount

/-- The rows after `n` frames are appended to RB and their range is given to packet id `id` (R160). -/
def State.storedRows (s : State) (id n : Nat) : List IdEntry :=
  s.ids.set id { alloc := true, handed := false, first := s.rb.length, last := s.rb.length + n - 1 }

/-- How many frames the range of packet id `id` spans (R27). -/
def State.runLength (s : State) (id : Nat) : Nat := (s.entry id).last - (s.entry id).first + 1

/-- RB without the run of packet id `id` (R165). -/
def State.releasedRb (s : State) (id : Nat) : List Frame :=
  s.rb.take (s.entry id).first ++ s.rb.drop ((s.entry id).last + 1)

/-- The rows once packet id `id` is Free and the ranges beyond its run are re-based (R165). -/
def State.releasedRows (s : State) (id : Nat) : List IdEntry :=
  (s.ids.map (rebase (s.entry id).last (s.runLength id))).set id .free

/-- The rows once packet id `id` is HandedOff (R167). -/
def State.handedRows (s : State) (id : Nat) : List IdEntry := s.ids.set id { s.entry id with handed := true }

/-- All a command can do to RB, the packet-id index and PKT_COUNT in a step from `s` to `t`. -/
inductive IndexStep (s t : State) : Instr → Prop where
  /-- Nothing; REL and HOFF do so on an invalid id only. -/
  | same {i : Instr} (hsame : SameIndex s t)
      (hinvalid : ∀ id, i = .rel id ∨ i = .hoff id → validId id.toNat s = false) : IndexStep s t i
  /-- SRST empties them (R240). -/
  | reset (hrb : t.rb = []) (hids : t.ids = List.replicate idCount .free) (hcount : t.pktCount = 0) :
      IndexStep s t .srst
  /-- SEGM appends frames and gives their range to the least Free id (R160). -/
  | stored {port : BitVec 3} {cls sd : BitVec 1} {scid : BitVec 10} (new : List Frame)
      (hfree : s.freeId ≠ idSentinel) (hnew : new ≠ []) (hcap : s.rb.length + new.length ≤ rbCap)
      (hrb : t.rb = s.rb ++ new)
      (hids : t.ids = s.storedRows s.freeId new.length)
      (hcount : t.pktCount = s.pktCount + 1) (hresult : t.result = BitVec.ofNat 16 s.freeId) :
      IndexStep s t (.segm port cls sd scid)
  /-- REL removes the id's run and re-bases the ranges beyond it (R165). -/
  | released {id : BitVec 8} (hvalid : validId id.toNat s = true)
      (hrb : t.rb = s.releasedRb id.toNat) (hids : t.ids = s.releasedRows id.toNat)
      (hcount : t.pktCount = s.pktCount - 1) :
      IndexStep s t (.rel id)
  /-- HOFF marks the id (R167). -/
  | handedOff {id : BitVec 8} (hvalid : validId id.toNat s = true) (hrb : t.rb = s.rb)
      (hids : t.ids = s.handedRows id.toNat) (hcount : t.pktCount = s.pktCount) :
      IndexStep s t (.hoff id)

@[simp] theorem IdEntry.free_alloc : IdEntry.free.alloc = false := rfl

@[simp] theorem IdEntry.free_handed : IdEntry.free.handed = false := rfl

/-- SEGM builds one frame at least (R157). -/
theorem fragCount_pos (L : Nat) : 0 < fragCount L := by
  simp only [fragCount, fragmented, maxFragPayload, decide_eq_true_eq]
  split <;> omega

/-- The commands that write neither RB nor the index (R25 to R29): each branch ends in an update of other fields. -/
theorem exec_sameIndex {i : Instr} {s t : State} (h : exec i s = .next t) (hsrst : i ≠ .srst)
    (hsegm : ∀ port cls sd scid, i ≠ .segm port cls sd scid) (hrel : ∀ id, i ≠ .rel id) (hhoff : ∀ id, i ≠ .hoff id) :
    SameIndex s t := by
  cases i with
  | srst => exact absurd rfl hsrst
  | segm port cls sd scid => exact absurd rfl (hsegm port cls sd scid)
  | rel id => exact absurd rfl (hrel id)
  | hoff id => exact absurd rfl (hhoff id)
  | nop | dclr | hpack | valid | nmore | tobits | accclr =>
    cases h
    exact ⟨rfl, rfl, rfl⟩
  | hunpk | ser | seri | deser | enq | drain | fpend | ldf | accum =>
    simp only [exec, execHunpk, execSer, execSeri, execDeser, execEnq, execDrain, execFpend, execLdf, execAccum] at h
    (repeat' split at h) <;> cases h <;> exact ⟨rfl, rfl, rfl⟩

/-- Every command's effect on RB and the index is one of `IndexStep`'s. -/
theorem exec_indexStep {i : Instr} {s t : State} (h : exec i s = .next t) : IndexStep s t i := by
  cases i with
  | srst =>
    cases h
    exact .reset rfl rfl rfl
  | segm port cls sd scid =>
    simp only [exec, execSegm] at h
    split at h
    · cases h
      exact .same ⟨rfl, rfl, rfl⟩ (by simp)
    · rename_i hfree
      split at h
      · cases h
        exact .same ⟨rfl, rfl, rfl⟩ (by simp)
      · rename_i hcap
        cases h
        have hpos := fragCount_pos s.sduLen.toNat
        refine .stored ((List.range (fragCount s.sduLen.toNat)).map (builtFrame port cls sd scid s)) hfree ?_ ?_
          rfl ?_ rfl rfl
        · simpa using Nat.ne_of_gt hpos
        · simpa using Nat.le_of_not_lt hcap
        · simp [State.storedRows]
  | rel id =>
    simp only [exec, execRel] at h
    split at h <;> cases h
    · exact .same ⟨rfl, rfl, rfl⟩ (by simp_all)
    · exact .released (by simp_all) rfl rfl rfl
  | hoff id =>
    simp only [exec, execHoff] at h
    split at h <;> cases h
    · exact .same ⟨rfl, rfl, rfl⟩ (by simp_all)
    · exact .handedOff (by simp_all) rfl rfl rfl
  | _ => exact .same (exec_sameIndex h (by simp) (by simp) (by simp) (by simp)) (by simp)

/-- SEGM's id, when it is not the sentinel, is a Free packet id (R156). -/
theorem freeId_free {s : State} (h : s.freeId ≠ idSentinel) : s.freeId < idCount ∧ s.allocated s.freeId = false := by
  cases hl : leastId fun i => !s.allocated i with
  | none => simp [State.freeId, hl] at h
  | some i =>
    obtain ⟨hp, hi, -⟩ := leastId_eq_some.1 hl
    have hfree : s.freeId = i := by simp [State.freeId, hl]
    rw [hfree]
    exact ⟨hi, by simpa using hp⟩

/-- What a valid packet-id operand is (R166). -/
theorem validId_iff {id : Nat} {s : State} : validId id s = true ↔ id < idCount ∧ s.allocated id = true := by
  simp [validId]

/-- Rows after SEGM gives a range to row `id` (R160). -/
theorem entry_of_stored {s t : State} {id n : Nat} (hids : t.ids = s.storedRows id n) (hid : id < s.ids.length)
    (j : Nat) : t.entry j = if j = id then
      { alloc := true, handed := false, first := s.rb.length, last := s.rb.length + n - 1 } else s.entry j := by
  rw [State.entry, hids, State.storedRows, getD_set_row _ _ _ _ hid, State.entry]

/-- Rows after REL frees row `id` and re-bases the others (R165). -/
theorem entry_of_released {s t : State} {id : Nat} (hids : t.ids = s.releasedRows id) (hid : id < s.ids.length)
    (j : Nat) : t.entry j = if j = id then .free else rebase (s.entry id).last (s.runLength id) (s.entry j) := by
  rw [State.entry, hids, State.releasedRows, getD_set_row _ _ _ _ (by simpa using hid), getD_map_rebase, ← State.entry]

/-- Rows after HOFF marks row `id` (R167). -/
theorem entry_of_handed {s t : State} {id : Nat} (hids : t.ids = s.handedRows id) (hid : id < s.ids.length)
    (j : Nat) : t.entry j = if j = id then { s.entry id with handed := true } else s.entry j := by
  rw [State.entry, hids, State.handedRows, getD_set_row _ _ _ _ hid, ← State.entry]

/-- Re-basing leaves ALLOC and HOFF (R165). -/
@[simp] theorem rebase_alloc (last c : Nat) (e : IdEntry) : (rebase last c e).alloc = e.alloc := by
  unfold rebase
  split <;> rfl

@[simp] theorem rebase_handed (last c : Nat) (e : IdEntry) : (rebase last c e).handed = e.handed := by
  unfold rebase
  split <;> rfl

/-- A range that ends before the removed block stays. -/
theorem rebase_before {last c : Nat} {e : IdEntry} (h : e.first ≤ last) : rebase last c e = e :=
  if_neg fun hlt => Nat.not_lt_of_le h hlt.2

/-- An allocated range beyond the removed block moves down by its length. -/
theorem rebase_beyond {last c : Nat} {e : IdEntry} (ha : e.alloc = true) (h : last < e.first) :
    rebase last c e = { e with first := e.first - c, last := e.last - c } :=
  if_pos ⟨ha, h⟩

/-- Allocated rows after one row is replaced, counted with what the replaced row was. -/
theorem countP_alloc_set (ids : List IdEntry) (id : Nat) (e : IdEntry) (hid : id < ids.length) :
    (ids.set id e).countP (·.alloc) + (ids.getD id .free).alloc.toNat = ids.countP (·.alloc) + e.alloc.toNat := by
  induction ids generalizing id with
  | nil => simp at hid
  | cons d ids ih =>
    cases id with
    | zero => cases hd : d.alloc <;> cases he : e.alloc <;> simp [hd, he]
    | succ id =>
      have := ih id (by simpa using hid)
      simp only [List.set_cons_succ, List.countP_cons, List.getD_cons_succ]
      omega

/-- Re-basing keeps the number of allocated rows. -/
theorem countP_alloc_map_rebase (ids : List IdEntry) (last c : Nat) :
    (ids.map (rebase last c)).countP (·.alloc) = ids.countP (·.alloc) := by
  rw [List.countP_map]
  exact List.countP_congr fun e _ => by simp

/-- The index stays sound where RB, PKT_COUNT, the number of rows, every ALLOC bit, every range and every Free row do. -/
theorem IdIndexInv.congr {s t : State} (hs : IdIndexInv s) (hrb : t.rb = s.rb) (hsize : t.ids.length = s.ids.length)
    (halloc : t.allocated = s.allocated) (hfirst : ∀ j, (t.entry j).first = (s.entry j).first)
    (hlast : ∀ j, (t.entry j).last = (s.entry j).last) (hfree : ∀ j, s.allocated j = false → t.entry j = s.entry j)
    (hcount : t.pktCount = s.pktCount) (hcountP : t.ids.countP (·.alloc) = s.ids.countP (·.alloc)) :
    IdIndexInv t := by
  constructor
  case size => rw [hsize, hs.size]
  case inRange => simpa only [halloc, hfirst, hlast, hrb] using hs.inRange
  case disjoint => simpa only [halloc, hfirst, hlast] using hs.disjoint
  case covered => simpa only [halloc, hfirst, hlast, hrb] using hs.covered
  case freeRow =>
    intro j hj ha
    have ha' : s.allocated j = false := halloc ▸ ha
    rw [hfree j ha', hs.freeRow j hj ha']
  case counted => rw [hcount, hcountP, hs.counted]
  case capacity => rw [hrb]; exact hs.capacity

/-- The index is sound in any state with the same RB, rows and count. -/
theorem IdIndexInv.same {s t : State} (hs : IdIndexInv s) (h : SameIndex s t) : IdIndexInv t := by
  obtain ⟨hrb, hids, hcount⟩ := h
  have hentry : ∀ j, t.entry j = s.entry j := fun j => by rw [State.entry, hids, ← State.entry]
  refine hs.congr hrb (by rw [hids]) ?_ (fun j => by rw [hentry]) (fun j => by rw [hentry]) (fun j _ => hentry j)
    hcount (by rw [hids])
  funext j
  rw [State.allocated, hentry, ← State.allocated]

/-- The empty index is sound (R240). -/
theorem IdIndexInv.empty {t : State} (hrb : t.rb = []) (hids : t.ids = List.replicate idCount .free)
    (hcount : t.pktCount = 0) : IdIndexInv t := by
  have hentry : ∀ j, t.entry j = .free := fun j => by rw [State.entry, hids, getD_replicate_free]
  have hallocated : ∀ j, t.allocated j = false := fun j => by rw [State.allocated, hentry]; rfl
  constructor
  · rw [hids, List.length_replicate]
  · exact fun j _ ha => absurd ha (by rw [hallocated]; decide)
  · exact fun j _ _ _ _ ha => absurd ha (by rw [hallocated]; decide)
  · simp [hrb]
  · exact fun j _ _ => hentry j
  · rw [hcount, hids, List.countP_replicate]; rfl
  · simp [hrb]

/-- Frames appended with their range given to a Free id keep the index sound (R160). -/
theorem IdIndexInv.store {s t : State} (hs : IdIndexInv s) {id : Nat} {new : List Frame} (hid : id < idCount)
    (hwas : s.allocated id = false) (hnew : new ≠ []) (hcap : s.rb.length + new.length ≤ rbCap)
    (hrb : t.rb = s.rb ++ new) (hids : t.ids = s.storedRows id new.length) (hcount : t.pktCount = s.pktCount + 1) :
    IdIndexInv t := by
  have hrow : id < s.ids.length := hs.size ▸ hid
  have hlen : t.rb.length = s.rb.length + new.length := by rw [hrb, List.length_append]
  have hpos : 0 < new.length := List.length_pos_iff.2 hnew
  have hself : t.entry id =
      { alloc := true, handed := false, first := s.rb.length, last := s.rb.length + new.length - 1 } := by
    rw [entry_of_stored hids hrow, if_pos rfl]
  have hother : ∀ {j}, j ≠ id → t.entry j = s.entry j := fun hj => by rw [entry_of_stored hids hrow, if_neg hj]
  have hotherAlloc : ∀ {j}, j ≠ id → t.allocated j = s.allocated j := fun hj => by
    rw [State.allocated, hother hj, ← State.allocated]
  have hold : ∀ j < idCount, j ≠ id → t.allocated j = true →
      (s.entry j).first ≤ (s.entry j).last ∧ (s.entry j).last < s.rb.length :=
    fun j hj hne ha => hs.inRange j hj (hotherAlloc hne ▸ ha)
  constructor
  case size => rw [hids, State.storedRows, List.length_set, hs.size]
  case inRange =>
    intro j hj ha
    by_cases hne : j = id
    · simp only [hne, hself, hlen]
      omega
    · have hjold := hold j hj hne ha
      rw [hother hne, hlen]
      omega
  case disjoint =>
    intro i hi j hj hij hia hja
    by_cases hiid : i = id
    · have hjid : j ≠ id := fun h => hij (hiid.trans h.symm)
      have hjold := hold j hj hjid hja
      simp only [hiid, hself, hother hjid]
      omega
    · by_cases hjid : j = id
      · have hiold := hold i hi hiid hia
        simp only [hjid, hself, hother hiid]
        omega
      · rw [hother hiid, hother hjid]
        exact hs.disjoint i hi j hj hij (hotherAlloc hiid ▸ hia) (hotherAlloc hjid ▸ hja)
  case covered =>
    intro k hk
    by_cases hkold : k < s.rb.length
    · obtain ⟨i, hi, hia, hrange⟩ := hs.covered k hkold
      have hiid : i ≠ id := fun h => by simp [h, hwas] at hia
      exact ⟨i, hi, hotherAlloc hiid ▸ hia, hother hiid ▸ hrange⟩
    · refine ⟨id, hid, by rw [State.allocated, hself], ?_⟩
      simp only [hself]
      omega
  case freeRow =>
    intro j hj ha
    have hne : j ≠ id := fun h => by simp [State.allocated, h, hself] at ha
    rw [hother hne]
    exact hs.freeRow j hj (hotherAlloc hne ▸ ha)
  case counted =>
    have hcountP := countP_alloc_set s.ids id
      { alloc := true, handed := false, first := s.rb.length, last := s.rb.length + new.length - 1 } hrow
    rw [show (s.ids.getD id .free).alloc = false from hwas] at hcountP
    rw [hcount, hs.counted, hids]
    exact hcountP.symm
  case capacity => rwa [hlen]

/-- Where the range of another allocated id stands after REL of `id`: before the removed run and unchanged, or beyond it
and moved down by the run's length (R43, R165). -/
theorem IdIndexInv.range_of_released {s t : State} (hs : IdIndexInv s) {id j : Nat} (hid : id < idCount)
    (hj : j < idCount) (hne : j ≠ id) (halloc : s.allocated id = true) (hjalloc : s.allocated j = true)
    (hids : t.ids = s.releasedRows id) :
    ((s.entry j).last < (s.entry id).first ∧ t.entry j = s.entry j) ∨
    ((s.entry id).last < (s.entry j).first ∧ (t.entry j).first + s.runLength id = (s.entry j).first ∧
      (t.entry j).last + s.runLength id = (s.entry j).last) := by
  have hrange := hs.inRange id hid halloc
  have hjrange := hs.inRange j hj hjalloc
  rw [entry_of_released hids (hs.size ▸ hid), if_neg hne]
  rcases hs.disjoint j hj id hid hne hjalloc halloc with hbefore | hbeyond
  · exact .inl ⟨hbefore, rebase_before (by omega)⟩
  · refine .inr ⟨hbeyond, ?_⟩
    rw [rebase_beyond hjalloc hbeyond, State.runLength]
    constructor <;> dsimp only <;> omega

/-- The frame that stands at offset `k` once the run of `id` is removed stood outside that run (R165). -/
theorem offset_before_release {s : State} {id k : Nat}
    (hrange : (s.entry id).first ≤ (s.entry id).last ∧ (s.entry id).last < s.rb.length)
    (hk : k + s.runLength id < s.rb.length) :
    ∃ k' < s.rb.length, (k' < (s.entry id).first ∧ k' = k) ∨
      ((s.entry id).last < k' ∧ k' = k + s.runLength id) := by
  unfold State.runLength at *
  by_cases hbefore : k < (s.entry id).first
  · exact ⟨k, by omega, .inl ⟨hbefore, rfl⟩⟩
  · exact ⟨k + ((s.entry id).last - (s.entry id).first + 1), hk, .inr ⟨by omega, rfl⟩⟩

/-- The run removed with its row freed and the ranges beyond it re-based keeps the index sound (R165). -/
theorem IdIndexInv.release {s t : State} (hs : IdIndexInv s) {id : Nat} (hid : id < idCount)
    (halloc : s.allocated id = true) (hrb : t.rb = s.releasedRb id) (hids : t.ids = s.releasedRows id)
    (hcount : t.pktCount = s.pktCount - 1) : IdIndexInv t := by
  have hrow : id < s.ids.length := hs.size ▸ hid
  have hrange := hs.inRange id hid halloc
  have hlen : t.rb.length + s.runLength id = s.rb.length := by
    rw [hrb, State.releasedRb, List.length_append, List.length_take, List.length_drop, State.runLength]
    omega
  have hself : t.entry id = .free := by rw [entry_of_released hids hrow, if_pos rfl]
  have hotherAlloc : ∀ {j}, j ≠ id → t.allocated j = s.allocated j := fun hj => by
    rw [State.allocated, entry_of_released hids hrow, if_neg hj, rebase_alloc, ← State.allocated]
  have hne : ∀ {j}, t.allocated j = true → j ≠ id := fun ha h => by
    rw [h, State.allocated, hself] at ha
    cases ha
  have hwas : ∀ {j}, t.allocated j = true → s.allocated j = true := fun ha => hotherAlloc (hne ha) ▸ ha
  have hmoved := fun {j} (hj : j < idCount) (ha : t.allocated j = true) =>
    hs.range_of_released hid hj (hne ha) halloc (hwas ha) hids
  constructor
  case size => rw [hids, State.releasedRows, List.length_set, List.length_map, hs.size]
  case inRange =>
    intro j hj ha
    have hjrange := hs.inRange j hj (hwas ha)
    rcases hmoved hj ha with ⟨hbefore, hentry⟩ | ⟨hbeyond, hfirst, hlast⟩
    · rw [hentry]
      unfold State.runLength at hlen
      omega
    · omega
  case disjoint =>
    intro i hi j hj hij hia hja
    have hapart := hs.disjoint i hi j hj hij (hwas hia) (hwas hja)
    rcases hmoved hi hia with ⟨hib, hirow⟩ | ⟨hib, hifirst, hilast⟩ <;>
      rcases hmoved hj hja with ⟨hjb, hjrow⟩ | ⟨hjb, hjfirst, hjlast⟩
    · rwa [hirow, hjrow]
    · rw [hirow]
      unfold State.runLength at hjfirst
      omega
    · rw [hjrow]
      unfold State.runLength at hifirst
      omega
    · omega
  case covered =>
    intro k hk
    obtain ⟨k', hk', hcase⟩ := offset_before_release (k := k) hrange (by omega)
    obtain ⟨i, hi, hia, hik⟩ := hs.covered k' hk'
    have hiid : i ≠ id := fun h => by
      rw [h] at hik
      omega
    have hia' : t.allocated i = true := hotherAlloc hiid ▸ hia
    refine ⟨i, hi, hia', ?_⟩
    rcases hmoved hi hia' with ⟨hbefore, hentry⟩ | ⟨hbeyond, hfirst, hlast⟩
    · rw [hentry]
      omega
    · omega
  case freeRow =>
    intro j hj ha
    by_cases hjid : j = id
    · rw [hjid, hself]
    · rw [entry_of_released hids hrow, if_neg hjid, hs.freeRow j hj (hotherAlloc hjid ▸ ha), rebase_free]
  case counted =>
    have hcountP := countP_alloc_set (s.ids.map (rebase (s.entry id).last (s.runLength id))) id .free
      (by simpa using hrow)
    rw [getD_map_rebase, rebase_alloc, countP_alloc_map_rebase, show (s.ids.getD id .free).alloc = true from halloc]
      at hcountP
    rw [hcount, hs.counted, hids]
    exact Nat.sub_eq_of_eq_add hcountP.symm
  case capacity =>
    have := hs.capacity
    omega

/-- HOFF's mark on an allocated id leaves ALLOC and the ranges, so the index stays sound (R167). -/
theorem IdIndexInv.handOff {s t : State} (hs : IdIndexInv s) {id : Nat} (hid : id < idCount)
    (halloc : s.allocated id = true) (hrb : t.rb = s.rb) (hids : t.ids = s.handedRows id)
    (hcount : t.pktCount = s.pktCount) : IdIndexInv t := by
  have hrow : id < s.ids.length := hs.size ▸ hid
  have hentry := entry_of_handed hids hrow
  refine hs.congr hrb ?_ ?_ ?_ ?_ ?_ hcount ?_
  · rw [hids, State.handedRows, List.length_set]
  · funext j
    rw [State.allocated, hentry]
    split <;> simp_all [State.allocated]
  · intro j
    rw [hentry]
    split <;> simp_all
  · intro j
    rw [hentry]
    split <;> simp_all
  · intro j hj
    rw [hentry, if_neg]
    rintro rfl
    simp [hj] at halloc
  · have hcountP := countP_alloc_set s.ids id { s.entry id with handed := true } hrow
    rw [← State.entry] at hcountP
    rw [hids]
    exact Nat.add_right_cancel hcountP

/-- Each of the changes of `IndexStep` keeps the index sound. -/
theorem IndexStep.keeps {i : Instr} {s t : State} (h : IndexStep s t i) (hs : IdIndexInv s) : IdIndexInv t := by
  cases h with
  | same hsame _ => exact hs.same hsame
  | reset hrb hids hcount => exact .empty hrb hids hcount
  | stored new hfree hnew hcap hrb hids hcount _ =>
    obtain ⟨hid, hwas⟩ := freeId_free hfree
    exact hs.store hid hwas hnew hcap hrb hids hcount
  | released hvalid hrb hids hcount =>
    obtain ⟨hid, halloc⟩ := validId_iff.1 hvalid
    exact hs.release hid halloc hrb hids hcount
  | handedOff hvalid hrb hids hcount =>
    obtain ⟨hid, halloc⟩ := validId_iff.1 hvalid
    exact hs.handOff hid halloc hrb hids hcount

/-- Settles O15: what a command does to the index is one of five changes, and each keeps it sound. -/
theorem commandsKeepTheIdIndex : Obligations.CommandsKeepTheIdIndex :=
  fun _ _ _ hs h => (exec_indexStep h).keeps hs

/-- The operand that names id `j` has its value. -/
theorem toNat_ofNat_id {j : Nat} (hj : j < idCount) : (BitVec.ofNat 8 j).toNat = j := by
  rw [BitVec.toNat_ofNat]
  simp only [idCount] at hj
  omega

/-- An operand is the one that names id `j` exactly when its value is `j`. -/
theorem eq_ofNat_id_iff {id : BitVec 8} {j : Nat} (hj : j < idCount) : id = BitVec.ofNat 8 j ↔ id.toNat = j := by
  constructor
  · rintro rfl
    exact toNat_ofNat_id hj
  · rintro rfl
    rw [BitVec.ofNat_toNat, BitVec.setWidth_eq]

/-- All a command can do to the state of one packet id (R48): leave it, free it with all the others, allocate it, free it,
or hand it off. -/
theorem IndexStep.row_cases {i : Instr} {s t : State} (h : IndexStep s t i) (hs : IdIndexInv s) {j : Nat}
    (hj : j < idCount) :
    ((t.entry j).alloc = (s.entry j).alloc ∧ (t.entry j).handed = (s.entry j).handed ∧
      ((s.entry j).alloc = true → i ≠ .rel (BitVec.ofNat 8 j) ∧ i ≠ .hoff (BitVec.ofNat 8 j))) ∨
    (i = .srst ∧ t.entry j = .free) ∨
    ((∃ port cls sd scid, i = .segm port cls sd scid) ∧ s.entry j = .free ∧ t.result.toNat = j ∧
      (t.entry j).alloc = true ∧ (t.entry j).handed = false) ∨
    (i = .rel (BitVec.ofNat 8 j) ∧ (s.entry j).alloc = true ∧ t.entry j = .free) ∨
    (i = .hoff (BitVec.ofNat 8 j) ∧ (s.entry j).alloc = true ∧ (t.entry j).alloc = true ∧
      (t.entry j).handed = true) := by
  cases h with
  | same hsame hinvalid =>
    have hrow : t.entry j = s.entry j := by rw [State.entry, hsame.ids, ← State.entry]
    have hvalid (ha : (s.entry j).alloc = true) : validId (BitVec.ofNat 8 j).toNat s = true := by
      rw [toNat_ofNat_id hj]
      exact validId_iff.2 ⟨hj, ha⟩
    refine .inl ⟨by rw [hrow], by rw [hrow], fun ha => ⟨fun hi => ?_, fun hi => ?_⟩⟩
    · exact Bool.false_ne_true ((hinvalid _ (.inl hi)).symm.trans (hvalid ha))
    · exact Bool.false_ne_true ((hinvalid _ (.inr hi)).symm.trans (hvalid ha))
  | reset hrb hids hcount => exact .inr (.inl ⟨rfl, by rw [State.entry, hids, getD_replicate_free]⟩)
  | stored new hfree hnew hcap hrb hids hcount hresult =>
    obtain ⟨hid, hwas⟩ := freeId_free hfree
    have hrow := entry_of_stored hids (hs.size ▸ hid) j
    by_cases hjid : j = s.freeId
    · subst hjid
      rw [if_pos rfl] at hrow
      refine .inr (.inr (.inl ⟨⟨_, _, _, _, rfl⟩, hs.freeRow _ hid hwas, ?_, by rw [hrow], by rw [hrow]⟩))
      rw [hresult, BitVec.toNat_ofNat]
      simp only [idCount] at hid
      omega
    · rw [if_neg hjid] at hrow
      exact .inl ⟨by rw [hrow], by rw [hrow], by simp⟩
  | @released id hvalid hrb hids hcount =>
    obtain ⟨hid, halloc⟩ := validId_iff.1 hvalid
    have hrow := entry_of_released hids (hs.size ▸ hid) j
    by_cases hjid : id = BitVec.ofNat 8 j
    · rw [(eq_ofNat_id_iff hj).1 hjid] at halloc hrow
      rw [if_pos rfl] at hrow
      exact .inr (.inr (.inr (.inl ⟨by rw [hjid], halloc, hrow⟩)))
    · rw [if_neg fun hji => hjid ((eq_ofNat_id_iff hj).2 hji.symm)] at hrow
      exact .inl ⟨by rw [hrow, rebase_alloc], by rw [hrow, rebase_handed], by simp [hjid]⟩
  | @handedOff id hvalid hrb hids hcount =>
    obtain ⟨hid, halloc⟩ := validId_iff.1 hvalid
    have hrow := entry_of_handed hids (hs.size ▸ hid) j
    by_cases hjid : id = BitVec.ofNat 8 j
    · rw [(eq_ofNat_id_iff hj).1 hjid] at halloc hrow
      rw [if_pos rfl] at hrow
      exact .inr (.inr (.inr (.inr ⟨by rw [hjid], halloc, by rw [hrow]; exact halloc, by rw [hrow]⟩)))
    · rw [if_neg fun hji => hjid ((eq_ofNat_id_iff hj).2 hji.symm)] at hrow
      exact .inl ⟨by rw [hrow], by rw [hrow], by simp [hjid]⟩

/-- Settles O51: R48's transitions, read off the five things a command can do to one packet id. -/
theorem packetIdLifecycle : Obligations.PacketIdLifecycle := by
  intro i s t hs hexec j hj
  simp only [State.allocated]
  rcases (exec_indexStep hexec).row_cases hs hj with ⟨halloc, hhanded, hother⟩ | ⟨rfl, hfreed⟩ |
    ⟨⟨_, _, _, _, rfl⟩, hwas, hresult, halloc, hhanded⟩ | ⟨rfl, halloc, hfreed⟩ | ⟨rfl, halloc, hstill, hhanded⟩
  · simp +contextual [halloc, hhanded, hother]
  · simp [hfreed]
  · simp [hwas, hresult, hhanded]
  · simp [halloc, hfreed]
  · simp [halloc, hstill, hhanded]

end Sys2Proof.Machine
end

section
/-! SUPPORT. The block's invariant: one rule per update of the state, then that every command and every host access keeps it
(R42 to R47, R143, R215, R220). -/

namespace Sys2Proof.Machine

/-! The rules: what an update must bring for the invariant to hold after it. -/

/-- A command that ends well leaves STATUS 0 (R219). -/
theorem State.Inv.finish {s : State} (hs : s.Inv) (v : Nat) : (finish v s).Inv where
  params := hs.params
  index := hs.index.same ⟨rfl, rfl, rfl⟩
  buffers := { hs.buffers with }
  frames := { hs.frames with }
  spaces := { hs.spaces with }
  status := ⟨Nat.zero_le _, hs.status.diag⟩
  order := hs.order

/-- A command that fails leaves a produced code in STATUS and sets that code's DIAG bit (R215, R219, R225). -/
theorem State.Inv.fail {s : State} (hs : s.Inv) {c : StatusCode} (v : Nat) (hcode : 1 ≤ c.code ∧ c.code ≤ 12) :
    (fail c v s).Inv where
  params := hs.params
  index := hs.index.same ⟨rfl, rfl, rfl⟩
  buffers := { hs.buffers with }
  frames := { hs.frames with }
  spaces := { hs.spaces with }
  status := by
    refine ⟨?_, fun k hk => ?_⟩
    · rw [fail_status, statusOf_toNat]
      exact hcode.2
    · have hne : c.code ≠ k := by omega
      simp [setDiag_getLsbD, hs.status.diag k hk, hne]
  order := hs.order

/-- DIAG cleared (R202). -/
theorem State.Inv.withDiagClear {s : State} (hs : s.Inv) : { s with diag := 0 }.Inv where
  params := hs.params
  index := hs.index.same ⟨rfl, rfl, rfl⟩
  buffers := { hs.buffers with }
  frames := { hs.frames with }
  spaces := { hs.spaces with }
  status := ⟨hs.status.status, fun _ _ => BitVec.getLsbD_zero⟩
  order := hs.order

/-- The model's own fields are no part of the invariant. -/
theorem State.Inv.withOwnFields {s : State} (hs : s.Inv) (draws : Nat) (readData : Word) (pending : List HostAction) :
    { s with draws := draws, readData := readData, pending := pending }.Inv where
  params := hs.params
  index := hs.index.same ⟨rfl, rfl, rfl⟩
  buffers := { hs.buffers with }
  frames := { hs.frames with }
  spaces := { hs.spaces with }
  status := { hs.status with }
  order := hs.order

/-- What the host writes, and F: the spaces in canonical form are all the invariant asks (log 11). -/
theorem State.Inv.withInputs {s : State} (hs : s.Inv) {cfg : BitVec 2} {f : FrameReg} {rx : Memory} {rxLen : BitVec 8}
    {sdu : Memory} {sduLen : BitVec 16} (hfpay : Memory.wf plenMax f.pay) (hrx : Memory.wf rxCap rx)
    (hsdu : Memory.wf sduCap sdu) :
    { s with cfg := cfg, f := f, rx := rx, rxLen := rxLen, sdu := sdu, sduLen := sduLen }.Inv where
  params := hs.params
  index := hs.index.same ⟨rfl, rfl, rfl⟩
  buffers := { hs.buffers with }
  frames := { hs.frames with }
  spaces := ⟨hfpay, hrx, hsdu⟩
  status := { hs.status with }
  order := hs.order

/-- The byte and bit sequences stay within their capacities, BITS whole bytes (R47). -/
theorem State.Inv.withSequences {s : State} (hs : s.Inv) {tx o acc : List Byte} {bits : List Bool}
    (htx : tx.length ≤ maxFrame) (ho : o.length ≤ oCap) (hacc : acc.length ≤ s.params.accCap)
    (hbits : bits.length ≤ bitsCap) (hwhole : bits.length % 8 = 0) :
    { s with tx := tx, o := o, acc := acc, bits := bits }.Inv where
  params := hs.params
  index := hs.index.same ⟨rfl, rfl, rfl⟩
  buffers := { hs.buffers with tx := htx, o := ho, acc := hacc, bits := hbits, bitsWhole := hwhole }
  frames := { hs.frames with }
  spaces := { hs.spaces with }
  status := { hs.status with }
  order := hs.order

/-- MQ holds at most 255 present frames, every command ahead of every data frame (R47, R143). -/
theorem State.Inv.withMq {s : State} (hs : s.Inv) {mq : List Frame} (hlen : mq.length ≤ mqCap)
    (hframes : ∀ g ∈ mq, g.pv = true ∧ g.pay.length ≤ plenMax) (horder : CommandsAhead s.params mq) :
    { s with mq := mq }.Inv where
  params := hs.params
  index := hs.index.same ⟨rfl, rfl, rfl⟩
  buffers := { hs.buffers with mq := hlen }
  frames := { hs.frames with mq := hframes }
  spaces := { hs.spaces with }
  status := { hs.status with }
  order := horder

/-- HO holds at most 255 stored frames (R47). -/
theorem State.Inv.withHo {s : State} (hs : s.Inv) {ho : List Frame} (hlen : ho.length ≤ rbCap)
    (hframes : ∀ g ∈ ho, g.wellFormed s.params ∧ g.pay.length ≤ maxFragPayload) : { s with ho := ho }.Inv where
  params := hs.params
  index := hs.index.same ⟨rfl, rfl, rfl⟩
  buffers := { hs.buffers with ho := hlen }
  frames := { hs.frames with ho := hframes }
  spaces := { hs.spaces with }
  status := { hs.status with }
  order := hs.order

/-- RB and its index: a sound index over well-formed frames of at most 249 payload bytes (R42 to R47). -/
theorem State.Inv.withStore {s : State} (hs : s.Inv) {rb : List Frame} {ids : List IdEntry} {pktCount : Nat}
    {ppid : BitVec 6} (hindex : IdIndexInv { s with rb := rb, ids := ids, pktCount := pktCount, ppid := ppid })
    (hframes : ∀ g ∈ rb, g.wellFormed s.params ∧ g.pay.length ≤ maxFragPayload) :
    { s with rb := rb, ids := ids, pktCount := pktCount, ppid := ppid }.Inv where
  params := hs.params
  index := hindex
  buffers := { hs.buffers with }
  frames := { hs.frames with rb := hframes }
  spaces := { hs.spaces with }
  status := { hs.status with }
  order := hs.order

/-- O alone changes. -/
theorem State.Inv.withO {s : State} (hs : s.Inv) {o : List Byte} (ho : o.length ≤ oCap) : { s with o := o }.Inv :=
  hs.withSequences hs.buffers.tx ho hs.buffers.acc hs.buffers.bits hs.buffers.bitsWhole

/-- TX alone changes. -/
theorem State.Inv.withTx {s : State} (hs : s.Inv) {tx : List Byte} (htx : tx.length ≤ maxFrame) :
    { s with tx := tx }.Inv :=
  hs.withSequences htx hs.buffers.o hs.buffers.acc hs.buffers.bits hs.buffers.bitsWhole

/-- ACC alone changes. -/
theorem State.Inv.withAcc {s : State} (hs : s.Inv) {acc : List Byte} (hacc : acc.length ≤ s.params.accCap) :
    { s with acc := acc }.Inv :=
  hs.withSequences hs.buffers.tx hs.buffers.o hacc hs.buffers.bits hs.buffers.bitsWhole

/-- F alone changes. -/
theorem State.Inv.withF {s : State} (hs : s.Inv) {f : FrameReg} (hfpay : Memory.wf plenMax f.pay) :
    { s with f := f }.Inv :=
  hs.withInputs hfpay hs.spaces.rx hs.spaces.sdu

/-- A frame loaded into F fills FPAY (R23). -/
theorem State.Inv.loadF {s : State} (hs : s.Inv) (g : Frame) : (loadF g s).Inv :=
  hs.withF (Memory.filled_wf plenMax g.pay)

/-- The reset state meets the invariant for every admissible setting of the parameters (R240). -/
theorem inv_resetWith {p : Params} (hp : p.wf) : (State.resetWith p).Inv where
  params := hp
  index := .empty rfl rfl rfl
  buffers := by constructor <;> simp
  frames := by constructor <;> simp
  spaces := by constructor <;> exact Memory.wf_nil _
  status := by constructor <;> simp
  order := .nil

/-! The parts that commands build: an insertion into MQ, the frames of SEGM, the bits of TOBITS. -/

/-- No frame before the insertion point of a command is a data frame (R141). -/
theorem class_ne_data_of_mem_take {p : Params} {g h : Frame} {mq : List Frame} (hg : frameClass p g = .command)
    (hh : h ∈ mq.take (insPos p g mq)) : frameClass p h ≠ .data := by
  rw [insPos, if_pos hg] at hh
  simpa using List.false_of_mem_take_findIdx hh

/-- ENQ's insertion keeps every command ahead of every data frame (R141, R143). -/
theorem commandsAhead_insert {p : Params} {mq : List Frame} (g : Frame) (h : CommandsAhead p mq) :
    CommandsAhead p (mq.take (insPos p g mq) ++ g :: mq.drop (insPos p g mq)) := by
  have hsplit := h
  rw [← List.take_append_drop (insPos p g mq) mq] at hsplit
  obtain ⟨htake, hdrop, hcross⟩ := List.pairwise_append.1 hsplit
  refine List.pairwise_append.2 ⟨htake, List.pairwise_cons.2 ⟨fun y hy hg => ?_, hdrop⟩, fun x hx y hy => ?_⟩
  · simp [insPos, hg] at hy
  · rcases List.mem_cons.1 hy with rfl | hy
    · exact fun hdata hcommand => class_ne_data_of_mem_take hcommand hx hdata
    · exact hcross x hx y hy

/-- A frame SEGM builds is well-formed with at most 249 payload bytes (R157, R163). -/
theorem builtFrame_wellFormed {s : State} (hp : s.params.wf) (port : BitVec 3) (cls sd : BitVec 1) (scid : BitVec 10)
    (k : Nat) : (builtFrame port cls sd scid s k).wellFormed s.params ∧
      (builtFrame port cls sd scid s k).pay.length ≤ maxFragPayload := by
  have hlen : fragLen s.sduLen.toNat k ≤ 249 := Nat.min_le_left _ _
  have hpay : (builtFrame port cls sd scid s k).pay.length = fragLen s.sduLen.toNat k := sduSlice_length ..
  obtain ⟨hdfc, -⟩ := hp
  refine ⟨⟨rfl, ?_, ?_, ?_, ?_⟩, by rw [hpay]; exact hlen⟩
  · rw [hpay]
    simp only [builtFrame, BitVec.toNat_ofNat]
    omega
  · cases hfr : fragmented s.sduLen.toNat <;> simp [builtFrame, hfr, hdfc]
  · intro hfr
    simp_all [builtFrame]
  · rw [hpay]
    split <;> simp only [hdrSize, segSize, maxFrame] <;> omega

/-- Eight bits for each byte (R189). -/
theorem bitsOf_length (b : List Byte) : (bitsOf b).length = 8 * b.length := by
  simp [bitsOf, List.length_flatMap, Nat.mul_comm]

/-- A frame of F serialized fits O (R114). -/
theorem serBytes_frameOfF_length_le (s : State) : (serBytes (frameOfF s)).length ≤ oCap := by
  have := frameOfF_pay_le s
  rw [serBytes_length, serLen]
  simp only [hdrSize, segSize, oCap, plenMax] at *
  split <;> omega

/-! Every command keeps the invariant: each way its meaning ends is an update of a rule above. -/

theorem execSrst_inv {s t : State} (hs : s.Inv) (h : execSrst s = .next t) : t.Inv := by
  cases h
  exact ((inv_resetWith hs.params).withOwnFields s.draws s.readData s.pending).finish 0

theorem execDclr_inv {s t : State} (hs : s.Inv) (h : execDclr s = .next t) : t.Inv := by
  cases h
  exact hs.withDiagClear.finish 0

theorem execHpack_inv {s t : State} (hs : s.Inv) (h : execHpack s = .next t) : t.Inv := by
  cases h
  exact (hs.withO (by simp [packHdr])).finish _

theorem execHunpk_inv {s t : State} (hs : s.Inv) (h : execHunpk s = .next t) : t.Inv := by
  unfold execHunpk at h
  split at h <;> cases h
  · exact hs.fail _ (by decide)
  · exact (hs.withF (f := { s.f with hdr := unpackHdr (rxBytes s) }) hs.spaces.fpay).finish _

theorem execSer_inv {s t : State} (hs : s.Inv) (h : execSer s = .next t) : t.Inv := by
  simp only [execSer] at h
  split at h <;> cases h
  · exact (hs.withO (Nat.zero_le _)).fail _ (by decide)
  · exact (hs.withO (serBytes_frameOfF_length_le s)).finish _

theorem execSeri_inv {cap : BitVec 16} {s t : State} (hs : s.Inv) (h : execSeri cap s = .next t) : t.Inv := by
  simp only [execSeri] at h
  split at h
  · cases h
    exact (hs.withO (Nat.zero_le _)).fail _ (by decide)
  · split at h <;> cases h
    · exact (hs.withO (Nat.zero_le _)).fail _ (by decide)
    · exact (hs.withO (serBytes_frameOfF_length_le s)).finish _

theorem execDeser_inv {s t : State} (hs : s.Inv) (h : execDeser s = .next t) : t.Inv := by
  unfold execDeser at h
  split at h <;> cases h
  · exact hs.fail _ (by decide)
  · exact (hs.loadF _).finish _

theorem execEnq_inv {s t : State} (hs : s.Inv) (h : execEnq s = .next t) : t.Inv := by
  simp only [execEnq] at h
  split at h
  · cases h
    exact hs.fail _ (by decide)
  · rename_i hpv
    split at h <;> cases h
    · exact hs.fail _ (by decide)
    · rename_i hroom
      refine (hs.withMq ?_ (fun g hg => ?_) (commandsAhead_insert (frameOfF s) hs.order)).finish _
      · rw [List.length_append, List.length_cons, List.length_take, List.length_drop]
        omega
      · rcases List.mem_append.1 hg with hg | hg
        · exact hs.frames.mq g (List.mem_of_mem_take hg)
        · rcases List.mem_cons.1 hg with rfl | hg
          · exact ⟨by simpa using hpv, frameOfF_pay_le s⟩
          · exact hs.frames.mq g (List.mem_of_mem_drop hg)

theorem execDrain_inv {s t : State} (hs : s.Inv) (h : execDrain s = .next t) : t.Inv := by
  unfold execDrain at h
  split at h
  · cases h
    exact (hs.withTx (Nat.zero_le _)).fail _ (by decide)
  · rename_i head rest hmq
    split at h
    · cases h
      exact (hs.withTx (Nat.zero_le _)).fail _ (by decide)
    · split at h <;> cases h
      · exact (hs.withTx (Nat.zero_le _)).fail _ (by decide)
      · rename_i hfits
        have hlen : rest.length ≤ s.mq.length := by simp [hmq]
        have hsub : ∀ g ∈ rest, g ∈ s.mq := fun g hg => hmq ▸ List.mem_cons_of_mem _ hg
        have horder := hs.order
        rw [hmq] at horder
        have htx : (serBytes head).length ≤ maxFrame := by rw [serBytes_length]; exact Nat.le_of_not_lt hfits
        exact ((hs.withTx htx).withMq (hlen.trans hs.buffers.mq) (fun g hg => hs.frames.mq g (hsub g hg))
          (List.pairwise_cons.1 horder).2).finish _

theorem execAccum_inv {s t : State} (hs : s.Inv) (h : execAccum s = .next t) : t.Inv := by
  have hpay := frameOfF_pay_le s
  obtain ⟨-, -, hcap, -⟩ := hs.params
  simp only [execAccum] at h
  split at h
  · cases h
    exact hs.fail _ (by decide)
  · split at h
    · cases h
      exact (hs.withAcc (hpay.trans hcap)).finish _
    · split at h <;> cases h
      · exact hs.fail _ (by decide)
      · rename_i hfits
        exact (hs.withAcc (by rw [List.length_append]; exact Nat.le_of_not_lt hfits)).finish _

theorem execTobits_inv {s t : State} (hs : s.Inv) (h : execTobits s = .next t) : t.Inv := by
  cases h
  have hlen : ((bitsOf s.acc).take (min (8 * s.acc.length) bitsCap)).length = min (8 * s.acc.length) 8192 := by
    rw [List.length_take, bitsOf_length]
    simp only [bitsCap]
    omega
  refine (hs.withSequences hs.buffers.tx hs.buffers.o (Nat.zero_le _) ?_ ?_).finish _
  · rw [hlen]
    exact Nat.min_le_right _ _
  · rw [hlen]
    omega

theorem execSegm_inv {port : BitVec 3} {cls sd : BitVec 1} {scid : BitVec 10} {s t : State} (hs : s.Inv)
    (h : execSegm port cls sd scid s = .next t) : t.Inv := by
  have hindex : IdIndexInv t := (exec_indexStep (i := .segm port cls sd scid) h).keeps hs.index
  simp only [execSegm] at h
  split at h
  · cases h
    exact hs.fail _ (by decide)
  · split at h <;> cases h
    · exact hs.fail _ (by decide)
    · refine (hs.withStore (hindex.same ⟨rfl, rfl, rfl⟩) fun g hg => ?_).finish _
      rcases List.mem_append.1 hg with hg | hg
      · exact hs.frames.rb g hg
      · obtain ⟨k, -, rfl⟩ := List.mem_map.1 hg
        exact builtFrame_wellFormed hs.params port cls sd scid k

theorem execRel_inv {id : BitVec 8} {s t : State} (hs : s.Inv) (h : execRel id s = .next t) : t.Inv := by
  have hindex : IdIndexInv t := (exec_indexStep (i := .rel id) h).keeps hs.index
  simp only [execRel] at h
  split at h <;> cases h
  · exact hs.fail _ (by decide)
  · refine (hs.withStore (hindex.same ⟨rfl, rfl, rfl⟩) fun g hg => hs.frames.rb g ?_).finish _
    exact (List.mem_append.1 hg).elim List.mem_of_mem_take List.mem_of_mem_drop

theorem execHoff_inv {id : BitVec 8} {s t : State} (hs : s.Inv) (h : execHoff id s = .next t) : t.Inv := by
  have hindex : IdIndexInv t := (exec_indexStep (i := .hoff id) h).keeps hs.index
  simp only [execHoff] at h
  split at h <;> cases h
  · exact (hs.withHo (Nat.zero_le _) (by simp)).fail _ (by decide)
  · have hmarked : IdIndexInv { s with ids := s.handedRows id.toNat } := hindex.same ⟨rfl, rfl, rfl⟩
    refine ((hs.withStore hmarked hs.frames.rb).withHo ?_ fun g hg => hs.frames.rb g ?_).finish _
    · have := hs.index.capacity
      rw [List.length_take, List.length_drop]
      omega
    · exact List.mem_of_mem_drop (List.mem_of_mem_take hg)

theorem execFpend_inv {s t : State} (hs : s.Inv) (h : execFpend s = .next t) : t.Inv := by
  unfold execFpend at h
  split at h <;> cases h
  · exact hs.fail _ (by decide)
  · exact hs.finish _

theorem execLdf_inv {src : BitVec 2} {idx : BitVec 8} {s t : State} (hs : s.Inv) (h : execLdf src idx s = .next t) :
    t.Inv := by
  unfold execLdf at h
  split at h
  · cases h
    exact hs.fail _ (by decide)
  · split at h <;> cases h
    · exact hs.fail _ (by decide)
    · exact (hs.loadF _).finish _

/-- Every command keeps the invariant. -/
theorem exec_inv {i : Instr} {s t : State} (hs : s.Inv) (h : exec i s = .next t) : t.Inv := by
  cases i with
  | nop | valid | nmore =>
    cases h
    exact hs.finish _
  | srst => exact execSrst_inv hs h
  | dclr => exact execDclr_inv hs h
  | hpack => exact execHpack_inv hs h
  | hunpk => exact execHunpk_inv hs h
  | ser => exact execSer_inv hs h
  | seri cap => exact execSeri_inv hs h
  | deser => exact execDeser_inv hs h
  | enq => exact execEnq_inv hs h
  | drain => exact execDrain_inv hs h
  | segm port cls sd scid => exact execSegm_inv hs h
  | rel id => exact execRel_inv hs h
  | hoff id => exact execHoff_inv hs h
  | fpend => exact execFpend_inv hs h
  | ldf src idx => exact execLdf_inv hs h
  | accum => exact execAccum_inv hs h
  | tobits => exact execTobits_inv hs h
  | accclr =>
    cases h
    exact (hs.withAcc (Nat.zero_le _)).finish _

/-! Host accesses and the step. -/

/-- A write to a register keeps the invariant: of what it asks about, only F changes, and FPAY stays (R205). -/
theorem hostWriteReg_inv {s : State} (hs : s.Inv) (r : Reg) (v : Word) : (hostWriteReg r v s).Inv := by
  have hinputs := fun cfg f rxLen sduLen (hf : f.pay = s.f.pay) =>
    hs.withInputs (cfg := cfg) (f := f) (rxLen := rxLen) (sduLen := sduLen) (hf ▸ hs.spaces.fpay) hs.spaces.rx
      hs.spaces.sdu
  cases r <;> exact hinputs _ _ _ _ rfl

/-- A write to a space keeps the invariant: the written cell lies within the space (R207). -/
theorem hostWriteSpace_inv {s : State} (hs : s.Inv) (space : Space) (i : Nat) (v : Word) :
    (hostWriteSpace space i v s).Inv := by
  obtain ⟨hfpay, hrx, hsdu⟩ := hs.spaces
  unfold hostWriteSpace
  split
  · rename_i hi
    cases space with
    | fpay => exact hs.withF (Memory.write_wf _ hfpay hi)
    | rx => exact hs.withInputs hfpay (Memory.write_wf _ hrx hi) hsdu
    | sdu => exact hs.withInputs hfpay hrx (Memory.write_wf _ hsdu hi)
    | o | tx | acc | bits | range => exact hs
  · exact hs

/-- Every action from outside keeps the invariant. -/
theorem perform_inv {a : HostAction} {s t : State} (hs : s.Inv) (h : perform a s = .next t) : t.Inv := by
  rcases perform_cases a s with ⟨w, i, -, -, hp⟩ | ⟨w, e, -, -, hp⟩ | ⟨r, v, -, -, hp⟩ | ⟨r, -, hp⟩ |
    ⟨space, i, v, -, hp⟩ | ⟨space, i, -, hp⟩ | ⟨-, hp⟩ <;> rw [hp] at h
  · exact exec_inv hs h
  · cases h
    exact hs.fail _ (by decide)
  · cases h
    exact hostWriteReg_inv hs r v
  · cases h
    exact hs.withOwnFields _ _ _
  · cases h
    exact hostWriteSpace_inv hs space i v
  · cases h
    exact hs.withOwnFields _ _ _
  · exact execSrst_inv hs h

/-- Settles O13: a step performs one action, and no action breaks the invariant. -/
theorem everyStepKeepsTheInvariant : Obligations.EveryStepKeepsTheInvariant := by
  intro s t hs h
  obtain ⟨a, rest, -, hperform⟩ := step_next h
  exact perform_inv (hs.withOwnFields s.draws s.readData rest) hperform

end Sys2Proof.Machine
end

section
/-! SUPPORT. A run as a fold (R68): no command and no host access reads the host's actions still to come or touches
them. -/

open Sys2Proof.Claim

namespace Sys2Proof.Machine

/-- The state with `p` as the actions still to come. -/
def State.withPending (s : State) (p : List HostAction) : State := { s with pending := p }

/-- The meaning `m` completes from `s`, and the actions still to come play no part in it: whichever they are, it leads to
the same state with them still to come. -/
def IgnoresPending (m : State → Host.Outcome State Fault Refusal) (s : State) : Prop :=
  ∃ t, m s = .next t ∧ ∀ p, m (s.withPending p) = .next (t.withPending p)

/-- An update that does not read the actions still to come. -/
theorem IgnoresPending.next {f : State → State} {s : State}
    (hf : ∀ p, f (s.withPending p) = (f s).withPending p := by exact fun _ => rfl) :
    IgnoresPending (fun u => .next (f u)) s :=
  ⟨f s, rfl, fun p => congrArg _ (hf p)⟩

/-- A test that does not read the actions still to come, between two meanings that do not. -/
theorem IgnoresPending.ite {c : State → Prop} [DecidablePred c] {m m' : State → Host.Outcome State Fault Refusal}
    {s : State} (hm : IgnoresPending m s) (hm' : IgnoresPending m' s)
    (hc : ∀ p, c (s.withPending p) = c s := by exact fun _ => rfl) :
    IgnoresPending (fun u => if c u then m u else m' u) s := by
  by_cases h : c s
  · simpa only [IgnoresPending, hc, h, if_true] using hm
  · simpa only [IgnoresPending, hc, h, if_false] using hm'

theorem execDeser_ignoresPending (s : State) : IgnoresPending execDeser s := by
  have hread (p) : parse (s.withPending p).params (rxBytes (s.withPending p)) = parse s.params (rxBytes s) := rfl
  simp only [IgnoresPending, execDeser, hread]
  split <;> exact ⟨_, rfl, fun _ => rfl⟩

theorem execDrain_ignoresPending (s : State) : IgnoresPending execDrain s := by
  have hread (p) : (s.withPending p).mq = s.mq := rfl
  simp only [IgnoresPending, execDrain, hread]
  split
  · exact ⟨_, rfl, fun _ => rfl⟩
  · (repeat' split) <;> exact ⟨_, rfl, fun _ => rfl⟩

theorem execFpend_ignoresPending (s : State) : IgnoresPending execFpend s := by
  have hread (p) : leastId (fun i => (s.withPending p).allocated i && decide (((s.withPending p).entry i).first = 0)) =
      leastId fun i => s.allocated i && decide ((s.entry i).first = 0) := rfl
  simp only [IgnoresPending, execFpend, hread]
  split <;> exact ⟨_, rfl, fun _ => rfl⟩

theorem execLdf_ignoresPending (src : BitVec 2) (idx : BitVec 8) (s : State) :
    IgnoresPending (execLdf src idx) s := by
  have hread (p) : sourceFrames src (s.withPending p) = sourceFrames src s := rfl
  simp only [IgnoresPending, execLdf, hread]
  split
  · exact ⟨_, rfl, fun _ => rfl⟩
  · split <;> exact ⟨_, rfl, fun _ => rfl⟩

/-- Every command completes and ignores the actions still to come (R8, R68, log 1): what it tests and what it stores come
from the other fields. -/
theorem exec_ignoresPending (i : Instr) (s : State) : IgnoresPending (exec i) s := by
  cases i with
  | nop | srst | dclr | hpack | valid | nmore | tobits | accclr => exact .next
  | hunpk | ser | rel | hoff => exact .ite .next .next
  | seri | enq | segm => exact .ite .next (.ite .next .next)
  | accum => exact .ite .next (.ite .next (.ite .next .next))
  | deser => exact execDeser_ignoresPending s
  | drain => exact execDrain_ignoresPending s
  | fpend => exact execFpend_ignoresPending s
  | ldf src idx => exact execLdf_ignoresPending src idx s

/-- A written word completes and ignores the actions still to come, legal or not (R96, R224). -/
theorem runCommand_ignoresPending (w : Word) (s : State) : IgnoresPending (runCommand w) s := by
  simp only [IgnoresPending, runCommand]
  split
  · exact exec_ignoresPending _ s
  · exact ⟨_, rfl, fun _ => rfl⟩

theorem hostWriteReg_withPending (r : Reg) (v : Word) (s : State) (p : List HostAction) :
    hostWriteReg r v (s.withPending p) = (hostWriteReg r v s).withPending p := by
  cases r <;> rfl

theorem hostWriteSpace_withPending (space : Space) (i : Nat) (v : Word) (s : State) (p : List HostAction) :
    hostWriteSpace space i v (s.withPending p) = (hostWriteSpace space i v s).withPending p := by
  have hread : (s.withPending p).params = s.params := rfl
  simp only [hostWriteSpace, hread]
  split
  · cases space <;> rfl
  · rfl

/-- Every action completes and ignores the actions that come after it (R68, R224). -/
theorem perform_ignoresPending (a : HostAction) (s : State) : IgnoresPending (perform a) s := by
  cases a with
  | writeReg r v => exact .ite (runCommand_ignoresPending v s) (.next (hostWriteReg_withPending r v s))
  | writeSpace space i v => exact .next (hostWriteSpace_withPending space i v s)
  | readReg | readSpace | hardwareReset => exact .next

/-- Every action leads to its transition's state, from the same state with other actions still to come to the same one with
those (R68). -/
theorem perform_withPending (a : HostAction) (s : State) (p : List HostAction) :
    perform a (s.withPending p) = .next ((transition s a).withPending p) := by
  obtain ⟨t, ht, hp⟩ := perform_ignoresPending a s
  simp only [transition, ht, hp]

/-- An action's transition neither removes an action still to come nor adds one. -/
theorem transition_pending (a : HostAction) (s : State) : (transition s a).pending = s.pending := by
  have hs : perform a s = .next ((transition s a).withPending s.pending) := perform_withPending a s s.pending
  rw [transition, hs]
  rfl

/-- A state is the state without its list, with its list. -/
theorem withPending_apart {s : State} {p : List HostAction} (h : s.pending = p) : (apart s).withPending p = s := by
  subst h
  rfl

/-- A run of as many steps as there are actions still to come ends in the fold of their transitions (R68). -/
theorem run_withPending (actions : List HostAction) (s : State) (hs : s.pending = []) :
    core.run actions.length (s.withPending actions) = .next (actions.foldl transition s) := by
  induction actions generalizing s with
  | nil => exact congrArg _ (withPending_apart hs)
  | cons a rest ih =>
    have hstep : step (s.withPending (a :: rest)) = .next ((transition s a).withPending rest) :=
      perform_withPending a s rest
    rw [List.length_cons, run_succ _ hstep]
    exact ih _ ((transition_pending a s).trans hs)

/-- Settles O6, by induction on the actions: each leads from the state without the list to its transition's state. -/
theorem runIsTheFoldOfTheActions : Obligations.RunIsTheFoldOfTheActions := by
  rintro actions s t hactions rfl
  have hrun := run_withPending actions (apart s) rfl
  rwa [withPending_apart hactions] at hrun

end Sys2Proof.Machine
end

section
/-! SUPPORT. The writers of each piece of state (R60, R22 to R38): one state per command that holds what the command may
write. -/

namespace Sys2Proof.Machine

/-- The state `s` with only what the command's rules let it write taken from `t`; STATUS, RESULT, DIAG and the draw counter
aside, which every command writes (R219). SRST writes everything (R201). -/
def writesOf (i : Instr) (s t : State) : State :=
  match i with
  | .nop | .dclr | .valid | .nmore | .fpend => s
  | .srst => t
  | .hpack | .ser | .seri _ => { s with o := t.o }
  | .hunpk => { s with f := { s.f with hdr := t.f.hdr } }
  | .deser | .ldf _ _ => { s with f := t.f }
  | .enq => { s with mq := t.mq }
  | .drain => { s with tx := t.tx, mq := t.mq }
  | .segm _ _ _ _ => { s with ppid := t.ppid, rb := t.rb, ids := t.ids, pktCount := t.pktCount }
  | .rel _ => { s with rb := t.rb, ids := t.ids, pktCount := t.pktCount }
  | .hoff _ => { s with ids := t.ids, ho := t.ho }
  | .accum | .accclr => { s with acc := t.acc }
  | .tobits => { s with acc := t.acc, bits := t.bits }

/-- The state `u` with what the end of a command writes (R219) taken from `t`. -/
def State.endedAs (u t : State) : State :=
  { u with status := t.status, result := t.result, diag := t.diag, draws := t.draws }

/-- A command leaves the state it found, but for what its rules let it write and for how it ended: each branch of its
meaning ends in an update of those fields. -/
theorem writesOf_endedAs {i : Instr} {s t : State} (h : exec i s = .next t) : (writesOf i s t).endedAs t = t := by
  cases i with
  | nop | srst | dclr | hpack | valid | nmore | tobits | accclr =>
    cases h
    rfl
  | hunpk | ser | deser | rel | hoff | fpend =>
    simp only [exec, execHunpk, execSer, execDeser, execRel, execHoff, execFpend] at h
    split at h <;> cases h <;> rfl
  | seri | enq | drain | segm | ldf | accum =>
    simp only [exec, execSeri, execEnq, execDrain, execSegm, execLdf, execAccum] at h
    (repeat' split at h) <;> cases h <;> rfl

/-- Settles O11: a field that a command's rules do not let it write is in `writesOf` the field it found. -/
theorem stateHasOnlyItsNamedWriters : Obligations.StateHasOnlyItsNamedWriters := by
  intro i s t h hsrst
  rw [← writesOf_endedAs h]
  cases i with
  | srst => exact absurd rfl hsrst
  | _ => simp [writesOf, State.endedAs]

end Sys2Proof.Machine
end

section
/-! SUPPORT. The command words of R92 to R96 by their fields: the decoder and the encoder are inverse to each other, and
the words no command decodes from are R96's illegal ones. -/

namespace Sys2Proof

open Machine Claim

-- ## Fields of a word

/-- A field is a concatenation exactly when its upper and its lower part are the two concatenated parts. -/
theorem extractLsb'_eq_append_iff {v n m p : Nat} {w : BitVec v} {x : BitVec n} {y : BitVec m} :
    w.extractLsb' p (n + m) = x ++ y ↔ w.extractLsb' (p + m) n = x ∧ w.extractLsb' p m = y := by
  rw [← BitVec.extractLsb'_append_extractLsb'_eq_extractLsb' (x := w) (rfl : p + m = p + m)]
  constructor
  · intro h
    constructor
    · rw [← BitVec.extractLsb'_append_eq_left (a := x) (b := y), ← h, BitVec.extractLsb'_append_eq_left]
    · rw [← BitVec.extractLsb'_append_eq_right (a := x) (b := y), ← h, BitVec.extractLsb'_append_eq_right]
  · rintro ⟨rfl, rfl⟩
    rfl

/-- The operand fields of the word are the command's (R92). -/
def Instr.HasOperands (i : Instr) (w : Word) : Prop :=
  w.extractLsb' 16 8 = i.operandA ∧ w.extractLsb' 0 16 = i.operandB

/-- A command's word is the one with its opcode and its operands (R92, R101). -/
theorem encode_eq_iff {i : Instr} {w : Word} : encode i = w ↔ w.extractLsb' 24 8 = i.opcode ∧ i.HasOperands w := by
  have h := extractLsb'_eq_append_iff (w := w) (p := 0) (x := i.opcode ++ i.operandA) (y := i.operandB)
  rw [extractLsb'_eq_append_iff (x := i.opcode), BitVec.extractLsb'_eq_self, and_assoc] at h
  exact eq_comm.trans h

/-- Operands that are both 0 are 24 clear bits. -/
theorem hasOperands_iff_of_zero {i : Instr} {w : Word} (ha : i.operandA = 0) (hb : i.operandB = 0) :
    i.HasOperands w ↔ w.extractLsb' 0 24 = 0 := by
  rw [Instr.HasOperands, ha, hb]
  exact (extractLsb'_eq_append_iff (p := 0) (x := (0 : BitVec 8)) (y := (0 : BitVec 16))).symm

/-- SEGM's operands in a word: the reserved bits clear and the fields at their places (R93). -/
theorem segm_hasOperands_iff {port : BitVec 3} {cls sd : BitVec 1} {scid : BitVec 10} {w : Word} :
    (Instr.segm port cls sd scid).HasOperands w ↔
      (w.extractLsb' 21 3 = 0 ∧ w.extractLsb' 10 6 = 0) ∧ w.extractLsb' 16 3 = port ∧ w.extractLsb' 19 1 = cls ∧
        w.extractLsb' 20 1 = sd ∧ w.extractLsb' 0 10 = scid := by
  have ha := extractLsb'_eq_append_iff (w := w) (p := 16) (x := 0#3 ++ sd ++ cls) (y := port)
  have hb := extractLsb'_eq_append_iff (w := w) (p := 0) (x := 0#6) (y := scid)
  rw [extractLsb'_eq_append_iff (x := 0#3 ++ sd), extractLsb'_eq_append_iff (x := 0#3)] at ha
  simp only [Instr.HasOperands, Instr.operandA, Instr.operandB, ha, hb]
  tauto

/-- LDF's operands in a word: the reserved bits clear and the fields at their places (R93). -/
theorem ldf_hasOperands_iff {src : BitVec 2} {idx : BitVec 8} {w : Word} :
    (Instr.ldf src idx).HasOperands w ↔
      (w.extractLsb' 18 6 = 0 ∧ w.extractLsb' 8 8 = 0) ∧ w.extractLsb' 16 2 = src ∧ w.extractLsb' 0 8 = idx := by
  have ha := extractLsb'_eq_append_iff (w := w) (p := 16) (x := 0#6) (y := src)
  have hb := extractLsb'_eq_append_iff (w := w) (p := 0) (x := 0#8) (y := idx)
  simp only [Instr.HasOperands, Instr.operandA, Instr.operandB, ha, hb]
  tauto

-- ## The decoder's arms

/-- A command without operands is read when all operand bits are clear. -/
theorem decodeBare_eq_ok_iff {w : Word} {mnemonic : String} {i j : Instr} (ha : i.operandA = 0) (hb : i.operandB = 0) :
    decodeBare w mnemonic i = .ok j ↔ i = j ∧ i.HasOperands w := by
  rw [hasOperands_iff_of_zero ha hb, decodeBare]
  split <;> simp_all

/-- SERI's arm reads SERI with the word's operands. -/
theorem decodeSeri_eq_ok_iff {w : Word} {i : Instr} :
    decodeSeri w = .ok i ↔ ∃ cap, .seri cap = i ∧ (Instr.seri cap).HasOperands w := by
  simp only [Instr.HasOperands, Instr.operandA, Instr.operandB, decodeSeri]
  split <;> simp_all

/-- SEGM's arm reads SEGM with the word's operands. -/
theorem decodeSegm_eq_ok_iff {w : Word} {i : Instr} :
    decodeSegm w = .ok i ↔
      ∃ port cls sd scid, .segm port cls sd scid = i ∧ (Instr.segm port cls sd scid).HasOperands w := by
  simp only [segm_hasOperands_iff, decodeSegm]
  split <;> simp_all

/-- The arm of REL and of HOFF reads that command with the word's operands. -/
theorem decodeId_eq_ok_iff {w : Word} {mnemonic : String} {command : BitVec 8 → Instr} {i : Instr}
    (ha : ∀ id, (command id).operandA = id) (hb : ∀ id, (command id).operandB = 0) :
    decodeId w mnemonic command = .ok i ↔ ∃ id, command id = i ∧ (command id).HasOperands w := by
  simp only [Instr.HasOperands, ha, hb, decodeId]
  split <;> simp_all

/-- LDF's arm reads LDF with the word's operands, if `src` is not 3 (R96). -/
theorem decodeLdf_eq_ok_iff {w : Word} {i : Instr} :
    decodeLdf w = .ok i ↔ ∃ src idx, .ldf src idx = i ∧ src ≠ 3 ∧ (Instr.ldf src idx).HasOperands w := by
  simp only [ldf_hasOperands_iff, decodeLdf]
  split
  · split <;> simp_all
  · simp_all

/-- The arm of `decode` for the opcode of `i`; the operands of `i` do not matter. -/
def Instr.decoder (i : Instr) (w : Word) : Except DecodeError Instr :=
  match i with
  | .nop => decodeBare w "NOP" .nop
  | .srst => decodeBare w "SRST" .srst
  | .dclr => decodeBare w "DCLR" .dclr
  | .hpack => decodeBare w "HPACK" .hpack
  | .hunpk => decodeBare w "HUNPK" .hunpk
  | .ser => decodeBare w "SER" .ser
  | .seri _ => decodeSeri w
  | .deser => decodeBare w "DESER" .deser
  | .valid => decodeBare w "VALID" .valid
  | .enq => decodeBare w "ENQ" .enq
  | .drain => decodeBare w "DRAIN" .drain
  | .segm _ _ _ _ => decodeSegm w
  | .rel _ => decodeId w "REL" .rel
  | .hoff _ => decodeId w "HOFF" .hoff
  | .fpend => decodeBare w "FPEND" .fpend
  | .ldf _ _ => decodeLdf w
  | .nmore => decodeBare w "NMORE" .nmore
  | .accum => decodeBare w "ACCUM" .accum
  | .tobits => decodeBare w "TOBITS" .tobits
  | .accclr => decodeBare w "ACCCLR" .accclr

/-- A word with the opcode of a command goes to that command's arm. -/
theorem decode_of_opcode {i : Instr} {w : Word} (h : w.extractLsb' 24 8 = i.opcode) : decode w = i.decoder w := by
  rw [decode, h]
  cases i <;> rfl

/-- One command for each opcode. -/
def Instr.representatives : List Instr :=
  [.nop, .srst, .dclr, .hpack, .hunpk, .ser, .seri 0, .deser, .valid, .enq, .drain, .segm 0 0 0 0, .rel 0, .hoff 0,
    .fpend, .ldf 0 0, .nmore, .accum, .tobits, .accclr]

/-- An opcode with a row of reserved bits is the opcode of a command (R95). -/
theorem exists_opcode_of_reservedBits {op : BitVec 8} (h : reservedBits op.toNat ≠ none) :
    ∃ i : Instr, op = i.opcode := by
  have hmem : ∀ op : BitVec 8, reservedBits op.toNat ≠ none → op ∈ Instr.representatives.map Instr.opcode := by
    decide
  obtain ⟨i, -, hi⟩ := List.mem_map.1 (hmem op h)
  exact ⟨i, hi.symm⟩

/-- A word has the opcode of a command, or an unassigned one, which does not decode (R95). -/
theorem opcode_or_unassigned (w : Word) :
    (∃ i : Instr, w.extractLsb' 24 8 = i.opcode) ∨
    (reservedBits (w.extractLsb' 24 8).toNat = none ∧
      decode w = .error (.unassignedOpcode (w.extractLsb' 24 8))) := by
  by_cases h : reservedBits (w.extractLsb' 24 8).toNat = none
  · refine .inr ⟨h, ?_⟩
    unfold decode
    -- every arm but the last is for an opcode that has such a row
    split <;> simp_all [reservedBits]
  · exact .inl (exists_opcode_of_reservedBits h)

/-- An arm reads commands of its own opcode only, with the word's operands. -/
theorem decoder_eq_ok {i j : Instr} {w : Word} (h : j.decoder w = .ok i) :
    i.opcode = j.opcode ∧ i.HasOperands w ∧ i.wellFormed = true := by
  cases j with
  | seri =>
    obtain ⟨cap, rfl, hw⟩ := decodeSeri_eq_ok_iff.1 h
    exact ⟨rfl, hw, rfl⟩
  | segm =>
    obtain ⟨port, cls, sd, scid, rfl, hw⟩ := decodeSegm_eq_ok_iff.1 h
    exact ⟨rfl, hw, rfl⟩
  | rel | hoff =>
    obtain ⟨id, rfl, hw⟩ := (decodeId_eq_ok_iff (fun _ => rfl) fun _ => rfl).1 h
    exact ⟨rfl, hw, rfl⟩
  | ldf =>
    obtain ⟨src, idx, rfl, hsrc, hw⟩ := decodeLdf_eq_ok_iff.1 h
    exact ⟨rfl, hw, bne_iff_ne.2 hsrc⟩
  | _ =>
    obtain ⟨rfl, hw⟩ := (decodeBare_eq_ok_iff rfl rfl).1 h
    exact ⟨rfl, hw, rfl⟩

/-- A command's arm reads the command from its operands. -/
theorem decoder_of_hasOperands {i : Instr} {w : Word} (hw : i.HasOperands w) (hi : i.wellFormed = true) :
    i.decoder w = .ok i := by
  cases i with
  | seri => exact decodeSeri_eq_ok_iff.2 ⟨_, rfl, hw⟩
  | segm => exact decodeSegm_eq_ok_iff.2 ⟨_, _, _, _, rfl, hw⟩
  | rel | hoff => exact (decodeId_eq_ok_iff (fun _ => rfl) fun _ => rfl).2 ⟨_, rfl, hw⟩
  | ldf => exact decodeLdf_eq_ok_iff.2 ⟨_, _, rfl, bne_iff_ne.1 hi, hw⟩
  | _ => exact (decodeBare_eq_ok_iff rfl rfl).2 ⟨rfl, hw⟩

/-- The decoder and the encoder are inverse to each other on the legal commands (R92 to R96). -/
theorem decode_eq_ok_iff {w : Word} {i : Instr} : decode w = .ok i ↔ encode i = w ∧ i.wellFormed = true := by
  rw [encode_eq_iff]
  constructor
  · intro h
    obtain ⟨j, hop⟩ | ⟨-, hbad⟩ := opcode_or_unassigned w
    · obtain ⟨hopcode, hw, hi⟩ := decoder_eq_ok ((decode_of_opcode hop).symm.trans h)
      exact ⟨⟨hop.trans hopcode.symm, hw⟩, hi⟩
    · cases hbad.symm.trans h
  · rintro ⟨⟨hop, hw⟩, hi⟩
    rw [decode_of_opcode hop, decoder_of_hasOperands hw hi]

/-- Settles O1: a command's word has the command's opcode and operands, from which its arm reads it. -/
theorem decodeOfEncodeIsTheCommand : Obligations.DecodeOfEncodeIsTheCommand :=
  fun _ hi => decode_eq_ok_iff.2 ⟨rfl, hi⟩

/-- Settles O2: every arm reads a command of the word's opcode with the word's operands, and these are the word. -/
theorem encodeOfDecodeIsTheWord : Obligations.EncodeOfDecodeIsTheWord :=
  fun _ _ h => decode_eq_ok_iff.1 h

-- ## The illegal words

/-- Some bit of the mask is 1 in the word. -/
def SetsBitOf (m w : Word) : Prop := ∃ k, m.getLsbD k = true ∧ w.getLsbD k = true

/-- The mask of the `len` bits from bit `p` on. -/
def fieldMask (p len : Nat) : Word := (BitVec.allOnes len).setWidth 32 <<< p

/-- A word sets a bit of two joined masks exactly when it sets a bit of one of them. -/
@[simp] theorem setsBitOf_or {m m' w : Word} : SetsBitOf (m ||| m') w ↔ SetsBitOf m w ∨ SetsBitOf m' w := by
  simp only [SetsBitOf, BitVec.getLsbD_or, Bool.or_eq_true, or_and_right, exists_or]

/-- The bits of a field's mask. -/
theorem fieldMask_getLsbD {p len k : Nat} :
    (fieldMask p len).getLsbD k = true ↔ k < 32 ∧ p ≤ k ∧ k < p + len := by
  simp only [fieldMask, BitVec.getLsbD_shiftLeft, BitVec.getLsbD_setWidth, BitVec.getLsbD_allOnes, Bool.and_eq_true,
    Bool.not_eq_true', decide_eq_true_eq, decide_eq_false_iff_not]
  omega

/-- A word sets a bit of a field exactly when the field is not 0. -/
@[simp] theorem setsBitOf_fieldMask {p len : Nat} {w : Word} :
    SetsBitOf (fieldMask p len) w ↔ w.extractLsb' p len ≠ 0 := by
  constructor
  · rintro ⟨k, hmask, hk⟩ hzero
    obtain ⟨-, hlow, hhigh⟩ := fieldMask_getLsbD.1 hmask
    have hbit : (w.extractLsb' p len).getLsbD (k - p) = true := by
      rw [BitVec.getLsbD_extractLsb', Nat.add_sub_cancel' hlow, hk, Bool.and_true, decide_eq_true_eq]
      omega
    simp [hzero] at hbit
  · intro hne
    by_contra hclear
    refine hne (BitVec.eq_of_getLsbD_eq fun k _ => ?_)
    rw [BitVec.ofNat_eq_ofNat, BitVec.getLsbD_zero]
    refine Bool.eq_false_iff.2 fun hbit => hclear ⟨p + k, ?_⟩
    rw [BitVec.getLsbD_extractLsb', Bool.and_eq_true] at hbit
    have hlt := BitVec.lt_of_getLsbD hbit.2
    exact ⟨fieldMask_getLsbD.2 (by omega), hbit.2⟩

/-- The reserved bits of the command's word (R93). -/
def Instr.reservedMask : Instr → Word
  | .seri _ => fieldMask 16 8
  | .segm _ _ _ _ => fieldMask 21 3 ||| fieldMask 10 6
  | .rel _ | .hoff _ => fieldMask 0 16
  | .ldf _ _ => fieldMask 18 6 ||| fieldMask 8 8
  | .nop | .srst | .dclr | .hpack | .hunpk | .ser | .deser | .valid | .enq | .drain | .fpend | .nmore | .accum
  | .tobits | .accclr => fieldMask 0 24

/-- R95's row of reserved bits for a command's opcode is the command's. -/
theorem reservedBits_opcode (i : Instr) : reservedBits i.opcode.toNat = some i.reservedMask := by
  cases i <;> rfl

/-- Both bits of LDF's `src` are 1 exactly when it is 3. -/
theorem src_eq_three_iff {w : Word} : w.extractLsb' 16 2 = 3 ↔ w.getLsbD 16 = true ∧ w.getLsbD 17 = true := by
  have hbits : ∀ src : BitVec 2, src = 3 ↔ src.getLsbD 0 = true ∧ src.getLsbD 1 = true := by decide
  rw [hbits, BitVec.getLsbD_extractLsb', BitVec.getLsbD_extractLsb']
  rfl

/-- The opcode is the word's upper byte (R92). -/
theorem opcode_toNat (w : Word) : (w.extractLsb' 24 8).toNat = w.toNat / 2 ^ 24 := by
  rw [BitVec.extractLsb'_toNat, Nat.shiftRight_eq_div_pow]
  omega

/-- A test of the decoder refuses a word when it fails or when what follows it refuses. -/
theorem ite_error_refuses_iff {c : Prop} [Decidable c] {x : Except DecodeError Instr} {e : DecodeError} :
    (∀ i, (if c then x else .error e) ≠ .ok i) ↔ ¬c ∨ ∀ i, x ≠ .ok i := by
  by_cases hc : c <;> simp [hc]

/-- A test of the decoder for an illegal operand refuses a word when it holds. -/
theorem ite_ok_refuses_iff {c : Prop} [Decidable c] {j : Instr} {e : DecodeError} :
    (∀ i, (if c then .error e else .ok j : Except DecodeError Instr) ≠ .ok i) ↔ c := by
  by_cases hc : c <;> simp [hc]

/-- An arm refuses a word exactly when a reserved bit is 1 or the word is LDF with `src = 3` (R96). -/
theorem decoder_refuses_iff (j : Instr) (w : Word) :
    (∀ i, j.decoder w ≠ .ok i) ↔
      SetsBitOf j.reservedMask w ∨ (j.opcode = 0x34 ∧ w.extractLsb' 16 2 = 3) := by
  cases j with
  | ldf =>
    simp [Instr.decoder, decodeLdf, Instr.reservedMask, Instr.opcode, ite_error_refuses_iff,
      ite_ok_refuses_iff, not_and_or, -not_and]
  | segm =>
    simp [Instr.decoder, decodeSegm, Instr.reservedMask, Instr.opcode, ite_error_refuses_iff,
      not_and_or, -not_and]
  | _ =>
    simp [Instr.decoder, decodeBare, decodeSeri, decodeId, Instr.reservedMask, Instr.opcode,
      ite_error_refuses_iff]

/-- A word is illegal exactly when no command decodes from it (R96). -/
theorem illegalWord_iff {w : Word} : illegalWord w ↔ ∀ i, decode w ≠ .ok i := by
  rw [illegalWord, ← opcode_toNat, ← src_eq_three_iff]
  obtain ⟨j, hop⟩ | ⟨hnone, hbad⟩ := opcode_or_unassigned w
  · rw [decode_of_opcode hop, decoder_refuses_iff, hop, reservedBits_opcode, BitVec.toNat_eq (y := 0x34)]
    simp [SetsBitOf]
  · simp only [hnone, hbad, ne_eq, reduceCtorEq, not_false_eq_true, implies_true, true_or]

/-- A step on a CMD write runs the written word (R205, R8). -/
theorem step_cmdWrite {w : Word} {s : State} {rest : List HostAction} (h : s.pending = .writeReg .cmd w :: rest) :
    step s = runCommand w { s with pending := rest } := by
  rw [step, h]
  rfl

/-- Running a word that does not decode is the failure of an illegal command (R96). -/
theorem runCommand_of_refused {w : Word} (s : State) (h : ∀ i, decode w ≠ .ok i) :
    runCommand w s = .next (illegalCommand s) := by
  unfold runCommand
  split
  next i hi => exact absurd hi (h i)
  next => rfl

/-- Settles O3: the decoder's tests are R96's, and a step on a word that fails them is the one shared failure. -/
theorem illegalWordsFailWithoutEffect : Obligations.IllegalWordsFailWithoutEffect := by
  refine ⟨fun w => illegalWord_iff, fun w s rest hpending hw => ?_⟩
  rw [step_cmdWrite hpending, runCommand_of_refused _ (illegalWord_iff.1 hw)]
  rfl

/-- Settles O4: the decoder runs on each word. -/
theorem writtenOutWordsDecode : Obligations.WrittenOutWordsDecode := by
  unfold Obligations.WrittenOutWordsDecode
  decide

end Sys2Proof
end

section
/-! SUPPORT. The Frame Codec (spec/40_frame_codec.md): the header and segmentation bytes as sums of their fields, `parse`
against `ser_bytes`, and what each codec command answers. -/

open Sys2Proof.Claim

namespace Sys2Proof.Machine

/-! The header's bytes (R110, R111, R119). -/

/-- Byte 0 as a sum of its fields (R110). -/
theorem Header.byte0_toNat (h : Header) :
    h.byte0.toNat =
      h.ver.toNat * 2 ^ 6 + h.qos.toNat * 2 ^ 5 + h.pduId.toNat * 2 ^ 4 + h.dfc.toNat * 2 ^ 2 + h.scId.toNat / 2 ^ 8 := by
  simp only [Header.byte0, toNat_append_eq_add, BitVec.extractLsb'_toNat, Nat.shiftRight_eq_div_pow]
  omega

/-- Byte 1 is the low part of SC_ID (R110). -/
theorem Header.byte1_toNat (h : Header) : h.byte1.toNat = h.scId.toNat % 2 ^ 8 := by
  simp [Header.byte1]

/-- Byte 2 as a sum of its fields (R110). -/
theorem Header.byte2_toNat (h : Header) :
    h.byte2.toNat = h.pcId.toNat * 2 ^ 7 + h.port.toNat * 2 ^ 4 + h.sdId.toNat * 2 ^ 3 + h.dlen.toNat / 2 ^ 8 := by
  simp only [Header.byte2, toNat_append_eq_add, BitVec.extractLsb'_toNat, Nat.shiftRight_eq_div_pow]
  omega

/-- Byte 3 is data_length_low (R110). -/
theorem Header.byte3_toNat (h : Header) : h.byte3.toNat = h.dlen.toNat % 2 ^ 8 := by
  simp [Header.byte3]

/-- Settles O19: each byte is a concatenation of fields, and a concatenation is a sum. -/
theorem packedHeaderBytes : Obligations.PackedHeaderBytes := by
  intro h
  simp only [packHdr, List.map_cons, List.map_nil, h.byte0_toNat, h.byte1_toNat, h.byte2_toNat, h.byte3_toNat,
    Header.byte4]

/-- A packed header unpacks to itself, whatever bytes follow it (R119). -/
theorem unpackHdr_packHdr_append (h : Header) (rest : List Byte) : unpackHdr (packHdr h ++ rest) = h := by
  have hbits : unpackHdr (packHdr h ++ rest) =
      { ver := h.byte0.extractLsb' 6 2, qos := h.byte0.extractLsb' 5 1, pduId := h.byte0.extractLsb' 4 1,
        dfc := h.byte0.extractLsb' 2 2, scId := h.byte0.extractLsb' 0 2 ++ h.byte1,
        pcId := h.byte2.extractLsb' 7 1, port := h.byte2.extractLsb' 4 3, sdId := h.byte2.extractLsb' 3 1,
        dlen := h.byte2.extractLsb' 0 3 ++ h.byte3, fsn := h.fsn } := rfl
  rw [hbits]
  obtain ⟨ver, qos, pduId, dfc, scId, pcId, port, sdId, dlen, fsn⟩ := h
  simp only [Header.mk.injEq, BitVec.toNat_eq, toNat_append_eq_add, BitVec.extractLsb'_toNat,
    Nat.shiftRight_eq_div_pow, Header.byte0_toNat, Header.byte1_toNat, Header.byte2_toNat, Header.byte3_toNat, and_true]
  omega

/-- SC_ID is put together from the low bits of byte 0 and byte 1 (R111). -/
theorem unpackHdr_scId_toNat (b : List Byte) :
    (unpackHdr b).scId.toNat = (b.getD 0 0).toNat % 2 ^ 2 * 2 ^ 8 + (b.getD 1 0).toNat :=
  (toNat_append_eq_add _ _).trans (by rw [BitVec.extractLsb'_toNat, Nat.shiftRight_zero])

/-- data_length is put together from the low bits of byte 2 and byte 3 (R111). -/
theorem unpackHdr_dlen_toNat (b : List Byte) :
    (unpackHdr b).dlen.toNat = (b.getD 2 0).toNat % 2 ^ 3 * 2 ^ 8 + (b.getD 3 0).toNat :=
  (toNat_append_eq_add _ _).trans (by rw [BitVec.extractLsb'_toNat, Nat.shiftRight_zero])

/-- Packing an unpacked header gives back the five bytes it was unpacked from (R119). -/
theorem packHdr_unpackHdr {b : List Byte} (h : hdrSize ≤ b.length) : packHdr (unpackHdr b) = b.take hdrSize := by
  obtain _ | ⟨b0, _ | ⟨b1, _ | ⟨b2, _ | ⟨b3, _ | ⟨b4, rest⟩⟩⟩⟩⟩ := b
  case cons.cons.cons.cons.cons =>
    apply List.map_injective_iff.2 BitVec.toNat_injective
    rw [packedHeaderBytes, unpackHdr_scId_toNat, unpackHdr_dlen_toNat]
    simp only [unpackHdr, BitVec.extractLsb'_toNat, Nat.shiftRight_eq_div_pow, List.getD_cons_zero,
      List.getD_cons_succ, List.take_succ_cons, List.take_zero, hdrSize, List.map_cons, List.map_nil, List.cons.injEq,
      and_true]
    omega
  all_goals exact absurd h (by simp)

/-- Settles O20: the two rules above, with nothing behind the five bytes. -/
theorem headerPackingIsABijection : Obligations.HeaderPackingIsABijection := by
  refine ⟨fun h => ?_, fun b hb => ?_⟩
  · simpa using unpackHdr_packHdr_append h []
  · rw [packHdr_unpackHdr hb.ge, List.take_of_length_le hb.le]

/-! The segmentation byte (R112, R113). -/

/-- The segmentation byte as a sum of its fields (R112). -/
theorem packSeg_toNat (g : SegHeader) : (packSeg g).toNat = g.flag.toNat * 2 ^ 6 + g.ppid.toNat :=
  toNat_append_eq_add g.flag g.ppid

/-- A packed segmentation header unpacks to itself. -/
@[simp] theorem unpackSeg_packSeg (g : SegHeader) : unpackSeg (packSeg g) = g := by
  rw [unpackSeg, packSeg, BitVec.extractLsb'_append_eq_left, BitVec.extractLsb'_append_eq_right]

/-- The fields of a segmentation byte (R113). -/
theorem unpackSeg_toNat (x : Byte) :
    (unpackSeg x).flag.toNat = x.toNat / 2 ^ 6 ∧ (unpackSeg x).ppid.toNat = x.toNat % 2 ^ 6 := by
  simp only [unpackSeg, BitVec.extractLsb'_toNat, Nat.shiftRight_eq_div_pow]
  omega

/-- Packing an unpacked segmentation byte gives back the byte. -/
@[simp] theorem packSeg_unpackSeg (x : Byte) : packSeg (unpackSeg x) = x := by
  apply BitVec.eq_of_toNat_eq
  obtain ⟨hflag, hppid⟩ := unpackSeg_toNat x
  rw [packSeg_toNat, hflag, hppid]
  omega

/-- Settles O21: the four rules above. -/
theorem segmentationBytePacking : Obligations.SegmentationBytePacking :=
  ⟨fun g => ⟨packSeg_toNat g, unpackSeg_packSeg g⟩,
    fun x => ⟨(unpackSeg_toNat x).1, (unpackSeg_toNat x).2, packSeg_unpackSeg x⟩⟩

/-! Serialized frames and `parse` (R114, R120, R123). -/

/-- Settles O22: the serialized form is read off its definition, and its length is the sum of its parts'. -/
theorem serializedFormAndLength : Obligations.SerializedFormAndLength := by
  intro g hpay
  refine ⟨rfl, serBytes_length g, rfl, ?_⟩
  rw [serLen]
  split <;> simp only [hdrSize, segSize] <;> omega

/-- When `parse` answers `short` (R120): the header, or what it announces, is not there. -/
theorem parse_eq_none_iff {p : Params} {b : List Byte} :
    parse p b = none ↔ b.length < hdrSize ∨
      b.length < (if decide ((unpackHdr b).dfc = p.dfcFrag) then hdrSize + segSize else hdrSize) +
        (b.getD 3 0).toNat := by
  simp only [parse]
  by_cases hhdr : b.length < hdrSize <;> simp [hhdr]

/-- Settles O23: `parse` is short in the first two cases only, and all it can answer else is what the third says. -/
theorem parseFollowsTheHeader : Obligations.ParseFollowsTheHeader := by
  intro p b fr off pl
  refine ⟨fun h => parse_eq_none_iff.2 (.inl h), fun _ h => parse_eq_none_iff.2 (.inr h), fun h5 hlen => ?_⟩
  have hsome : parse p b ≠ none := fun h => (parse_eq_none_iff.1 h).elim h5.not_gt hlen.not_gt
  obtain ⟨⟨g, k⟩, hparse⟩ := Option.ne_none_iff_exists'.1 hsome
  obtain ⟨-, -, hpv, hhdr, hfrag, hseg, hk, hpay⟩ := parse_eq_some hparse
  rw [hfrag] at hseg hk hpay
  subst hk
  refine ⟨g, hparse, hpv, hfrag, hhdr, hseg, (parse_pay_length hparse).1, fun j hj => ?_⟩
  have hbyte : ((b.drop off).take pl)[j]? = b[off + j]? := by rw [List.getElem?_take_of_lt hj, List.getElem?_drop]
  exact hpay ▸ congrArg (Option.getD · 0) hbyte

/-- A well-formed frame has at most 255 serialized bytes (R21). -/
theorem Frame.wellFormed.serLen_le {p : Params} {g : Frame} (h : g.wellFormed p) : serLen g ≤ maxFrame := by
  obtain ⟨-, -, -, -, hlen⟩ := h
  exact hlen

/-- The header of a serialized frame unpacks to the frame's. -/
@[simp] theorem unpackHdr_serBytes (g : Frame) : unpackHdr (serBytes g) = g.hdr := by
  rw [serBytes, List.append_assoc, unpackHdr_packHdr_append]

/-- Byte 3 of a serialized frame is its data_length_low. -/
theorem serBytes_getD_three (g : Frame) : ((serBytes g).getD 3 0).toNat = g.hdr.dlen.toNat % 2 ^ 8 :=
  g.hdr.byte3_toNat

/-- Byte 5 of a serialized fragment is its segmentation header (R114). -/
theorem serBytes_getD_five {g : Frame} (h : g.frag = true) : (serBytes g).getD hdrSize 0 = packSeg g.seg := by
  rw [serBytes, h]
  rfl

/-- Behind the headers that the variant tag calls for comes the payload (R114). -/
theorem drop_headers_serBytes (g : Frame) :
    (serBytes g).drop (if g.frag then hdrSize + segSize else hdrSize) = g.pay := by
  rw [serBytes]
  cases g.frag <;> rfl

/-- A well-formed frame parses back from its serialized form: its header comes back, DFC_ID tells the form the variant tag
had, and data_length_low is the length of the payload (R123). -/
theorem parse_serBytes {p : Params} {g : Frame} (h : g.wellFormed p) : parse p (serBytes g) = some (g, serLen g) := by
  obtain ⟨hpv, hdlen, hfrag, hseg, hmax⟩ := h
  have hform : decide ((unpackHdr (serBytes g)).dfc = p.dfcFrag) = g.frag := by simp [← hfrag]
  have hlow : ((serBytes g).getD 3 0).toNat = g.pay.length := by
    rw [serBytes_getD_three, hdlen]
    exact Nat.mod_eq_of_lt (Nat.lt_succ_of_le ((Nat.le_add_left ..).trans hmax))
  have hsome : parse p (serBytes g) ≠ none := by
    rw [Ne, parse_eq_none_iff, hform, hlow, serBytes_length, serLen]
    cases g.frag <;> simp only [hdrSize, segSize, Bool.false_eq_true, if_true, if_false] <;> omega
  obtain ⟨⟨g', k⟩, hparse⟩ := Option.ne_none_iff_exists'.1 hsome
  obtain ⟨-, -, hpv', hhdr', hfrag', hseg', -, hpay'⟩ := parse_eq_some hparse
  rw [hform] at hfrag'
  rw [unpackHdr_serBytes] at hhdr'
  rw [hfrag', hlow, drop_headers_serBytes, List.take_length] at hpay'
  have hsegs : g'.seg = g.seg := by
    rw [hseg', hfrag']
    cases hf : g.frag with
    | true => rw [if_pos rfl, serBytes_getD_five hf, unpackSeg_packSeg]
    | false => exact (hseg hf).symm
  obtain rfl : g' = g := by
    cases g
    cases g'
    simp_all only
  rw [hparse, (parse_pay_length hparse).2.2]

/-- The headers of a parsed frame, packed, are the bytes before its payload. -/
theorem packed_headers_of_parsed {p : Params} {b : List Byte} {g : Frame} {k : Nat} (h : parse p b = some (g, k)) :
    packHdr g.hdr ++ (if g.frag then [packSeg g.seg] else []) =
      b.take (if g.frag then hdrSize + segSize else hdrSize) := by
  obtain ⟨h5, hkb, -, hhdr, -, hseg, hk, -⟩ := parse_eq_some h
  rw [hhdr, packHdr_unpackHdr h5]
  cases hfrag : g.frag with
  | false => exact List.append_nil _
  | true =>
    rw [hfrag, if_pos rfl] at hseg hk
    have hlt : hdrSize < b.length := by
      simp only [hdrSize, segSize] at hk ⊢
      omega
    simp [hseg, List.take_add_one, hlt]

/-- What parses serializes to the bytes it was parsed from (R123). -/
theorem serBytes_of_parsed {p : Params} {b : List Byte} {g : Frame} {k : Nat} (h : parse p b = some (g, k)) :
    serBytes g = b.take k := by
  obtain ⟨-, -, -, -, -, -, hk, hpay⟩ := parse_eq_some h
  rw [serBytes, packed_headers_of_parsed h, hk, List.take_add, hpay]

/-! What the codec commands answer (R115 to R118, R121, R122). -/

/-- The operation that ends a command is R219's `done`. -/
theorem finish_eq_done (v : Nat) (s : State) : finish v s = done v s := rfl

/-- The operation that fails a command is R219's, with the code of R215. -/
theorem fail_eq_failed (c : StatusCode) (v : Nat) (s : State) : fail c v s = failed c.code v s := rfl

@[simp] theorem frameOfF_pv (s : State) : (frameOfF s).pv = s.f.pv := rfl

/-- SER of a present frame (R117). -/
theorem execSer_of_present {s : State} (h : s.f.pv = true) :
    exec .ser s = .next (done (serLen (frameOfF s)) { s with o := serBytes (frameOfF s) }) := by
  simp [exec, execSer, h, finish_eq_done]

/-- SER of an absent frame (R117). -/
theorem execSer_of_absent {s : State} (h : s.f.pv = false) :
    exec .ser s = .next (failed 2 0 { s with o := [] }) := by
  simp [exec, execSer, h, fail_eq_failed, StatusCode.code]

/-- DESER of an input that parses (R121). -/
theorem execDeser_of_parsed {s : State} {g : Frame} {k : Nat} (h : parse s.params (rxBytes s) = some (g, k)) :
    exec .deser s = .next (done k (loadF g s)) := by
  simp [exec, execDeser, h, finish_eq_done]

/-- DESER of a short input (R121). -/
theorem execDeser_of_short {s : State} (h : parse s.params (rxBytes s) = none) :
    exec .deser s = .next (failed 9 0 s) := by
  simp [exec, execDeser, h, fail_eq_failed, StatusCode.code]

/-- Settles O25: HPACK has the one branch. -/
theorem hpackWritesTheHeader : Obligations.HpackWritesTheHeader :=
  ⟨rfl, fun _ => rfl⟩

/-- The header of the received bytes is that of the first five (R111). -/
theorem unpackHdr_rxBytes {s : State} (h : hdrSize ≤ s.rxLen.toNat) :
    unpackHdr (rxBytes s) = unpackHdr [s.rxByte 0, s.rxByte 1, s.rxByte 2, s.rxByte 3, s.rxByte 4] := by
  have hbyte (i : Nat) (hi : i < hdrSize) : (rxBytes s).getD i 0 = s.rxByte i := rxBytes_getD s i (by omega)
  simp only [unpackHdr, hbyte 0 (by decide), hbyte 1 (by decide), hbyte 2 (by decide), hbyte 3 (by decide),
    hbyte 4 (by decide)]
  rfl

/-- Settles O26: HUNPK's two branches. -/
theorem hunpkReadsTheHeader : Obligations.HunpkReadsTheHeader := by
  refine ⟨rfl, fun s => ⟨fun h => ?_, fun h => ?_⟩⟩
  · simp [exec, execHunpk, h.not_gt, finish_eq_done, unpackHdr_rxBytes h]
  · simp [exec, execHunpk, h, fail_eq_failed, StatusCode.code]

/-- Settles O27: SER's two branches. -/
theorem serSerializesF : Obligations.SerSerializesF :=
  ⟨rfl, fun _ => ⟨execSer_of_present, execSer_of_absent⟩⟩

/-- SERI's word is its opcode in the upper half and its capacity in the lower (R93, R101). -/
theorem encode_seri (cap : BitVec 16) : encode (.seri cap) = 0x13000000 ||| cap.setWidth 32 := by
  apply BitVec.eq_of_toNat_eq
  have hupper : (0x13#8 ++ 0#8 : BitVec 16).toNat <<< 16 = (0x13000000#32).toNat := by decide
  rw [BitVec.toNat_or, BitVec.toNat_setWidth_of_le (by decide)]
  exact hupper ▸ BitVec.toNat_append (0x13#8 ++ 0#8) cap

/-- Settles O28: SERI's three branches. -/
theorem seriRespectsTheCapacity : Obligations.SeriRespectsTheCapacity := by
  refine fun cap s => ⟨encode_seri cap, fun hpv hcap => ?_, fun hpv => ?_, fun hpv hcap => ?_⟩
  · simp [exec, execSeri, hpv, hcap.not_gt, finish_eq_done]
  · simp [exec, execSeri, hpv, fail_eq_failed, StatusCode.code]
  · simp [exec, execSeri, hpv, hcap, fail_eq_failed, StatusCode.code]

/-- Settles O30: VALID has the one branch. -/
theorem validChecksPresenceAndVersion : Obligations.ValidChecksPresenceAndVersion :=
  ⟨rfl, fun _ => rfl⟩

/-- F after a load holds the frame loaded (R23). -/
theorem holdsFrame_loadF {g : Frame} {s : State} : holdsFrame (loadF g s).f g := by
  refine ⟨rfl, rfl, rfl, rfl, BitVec.toNat_ofNat .., fun i hi => ?_, fun i hi => ?_⟩
  · exact (Memory.read_filled ..).trans (if_pos hi)
  · exact (Memory.read_filled ..).trans (if_neg hi.not_gt)

/-- Settles O29: DESER's two branches, and what `parse` says of the length. -/
theorem deserLoadsTheParsedFrame : Obligations.DeserLoadsTheParsedFrame := by
  refine ⟨rfl, fun s => ⟨fun g k hparse => ?_, execDeser_of_short⟩⟩
  obtain ⟨-, hmax, hk⟩ := parse_pay_length hparse
  exact ⟨(loadF g s).f, execDeser_of_parsed hparse, holdsFrame_loadF, hmax, hk⟩

/-! SER, the copy of O to RX, DESER (R123). -/

/-- A space filled from index 0 reads as the bytes it was filled with. -/
theorem Memory.read_zipIdx (b : List Byte) (i : Nat) : Memory.read (b.zipIdx.map fun c => (c.2, c.1)) i = b[i]? := by
  suffices h : ∀ n, Memory.read ((b.zipIdx n).map fun c => (c.2, c.1)) (n + i) = b[i]? by simpa using h 0
  induction b generalizing i with
  | nil => simp
  | cons x b ih =>
    intro n
    rw [List.zipIdx_cons, List.map_cons, Memory.read_cons]
    cases i with
    | zero => simp
    | succ i =>
      rw [if_neg (by simp), ← Nat.add_assoc, Nat.add_right_comm]
      exact ih i (n + 1)

/-- The received bytes are those the host copied into RX, when RX_LEN can hold their count. -/
theorem rxBytes_of_copied {u : State} {b : List Byte} (hb : b.length ≤ rxCap)
    (hrx : u.rx = b.zipIdx.map fun c => (c.2, c.1)) (hlen : u.rxLen = BitVec.ofNat 8 b.length) : rxBytes u = b := by
  have hlen' : u.rxLen.toNat = b.length := by
    rw [hlen, BitVec.toNat_ofNat, Nat.mod_eq_of_lt (Nat.lt_succ_of_le hb)]
  apply List.ext_getElem
  · rw [rxBytes_length, hlen']
  · intro i _ hi
    simp [rxBytes, State.rxByte, hrx, Memory.read_zipIdx, hi]

/-- Settles O24: the two directions above; SER leaves the serialized frame in O, so DESER parses the copy back to the frame
of F, and a loaded frame is the frame of F. -/
theorem serializeParseRoundTrip : Obligations.SerializeParseRoundTrip := by
  refine ⟨fun p g => parse_serBytes, fun p b g k h => ⟨serBytes_of_parsed h, ?_⟩, ?_⟩
  · obtain ⟨-, hk, -⟩ := parse_eq_some h
    exact hk
  · intro s t u v hwf hser hu hdeser
    obtain ⟨hpv, -⟩ := id hwf
    rw [execSer_of_present hpv] at hser
    cases hser
    have hrx : rxBytes u = serBytes (frameOfF s) :=
      rxBytes_of_copied ((serBytes_length _).trans_le hwf.serLen_le) (by rw [hu]; rfl) (by rw [hu]; rfl)
    have hparse : parse u.params (rxBytes u) = some (frameOfF s, serLen (frameOfF s)) := by
      rw [hrx, hu]
      exact parse_serBytes hwf
    rw [execDeser_of_parsed hparse] at hdeser
    cases hdeser
    exact ⟨rfl, frameOfF_of_loaded (s := u) (frameOfF_pay_le s) rfl⟩

end Sys2Proof.Machine
end

section
/-! SUPPORT. The Transmit Multiplexer (spec/41_multiplexer.md): the classes and the insertion position, each ending of
ENQ and DRAIN, and what a command can do to the queue. -/

open Sys2Proof.Claim

namespace Sys2Proof.Machine

/-! Classes and the insertion position (R140, R141). -/

theorem frameClass_eq_fragment_iff {p : Params} {g : Frame} : frameClass p g = .fragment ↔ g.frag = true := by
  cases hfrag : g.frag <;> simp [frameClass, hfrag, ite_eq_iff]

theorem frameClass_eq_command_iff {p : Params} {g : Frame} :
    frameClass p g = .command ↔ g.frag = false ∧ g.hdr.pduId = p.pduCmd := by
  cases hfrag : g.frag <;> simp [frameClass, hfrag]

theorem frameClass_eq_data_iff {p : Params} {g : Frame} :
    frameClass p g = .data ↔ g.frag = false ∧ g.hdr.pduId ≠ p.pduCmd := by
  cases hfrag : g.frag <;> simp [frameClass, hfrag]

/-- A frame that is no command is offered to the tail (R141). -/
theorem insPos_of_ne_command {p : Params} {g : Frame} (hg : frameClass p g ≠ .command) (mq : List Frame) :
    insPos p g mq = mq.length :=
  if_neg hg

theorem insPos_le_length (p : Params) (g : Frame) (mq : List Frame) : insPos p g mq ≤ mq.length := by
  unfold insPos
  split
  · exact List.findIdx_le_length
  · exact le_rfl

/-- A command that does not go to the tail takes the place of a data frame (R141). -/
theorem class_eq_data_at_insPos {p : Params} {g h : Frame} {mq : List Frame} (hg : frameClass p g = .command)
    (hh : mq[insPos p g mq]? = some h) : frameClass p h = .data := by
  rw [insPos, if_pos hg] at hh
  obtain ⟨hlt, rfl⟩ := List.getElem?_eq_some_iff.1 hh
  exact of_decide_eq_true (List.findIdx_getElem (w := hlt))

/-- Settles O31: the rules above, and that no data frame stands before the position of a command. -/
theorem insertionPositionFollowsTheClass : Obligations.InsertionPositionFollowsTheClass := by
  refine fun p g mq => ⟨frameClass_eq_fragment_iff, frameClass_eq_command_iff, frameClass_eq_data_iff,
    fun hg => insPos_of_ne_command hg mq, fun hg => ⟨insPos_le_length p g mq, fun k h hk hlt => ?_,
      fun h => class_eq_data_at_insPos hg⟩⟩
  exact class_ne_data_of_mem_take hg (List.mem_of_getElem? ((List.getElem?_take_of_lt hlt).trans hk))

/-- Behind the insertion position of a frame stand frames that are no commands, and none at all when the frame is no
command itself: the position is the tail or that of the first data frame (R141, R143). -/
theorem class_of_mem_drop_insPos {p : Params} {g x : Frame} {mq : List Frame} (hmq : CommandsAhead p mq)
    (hx : x ∈ mq.drop (insPos p g mq)) : frameClass p g = .command ∧ frameClass p x ≠ .command := by
  by_cases hg : frameClass p g = .command
  · refine ⟨hg, ?_⟩
    cases hdrop : mq.drop (insPos p g mq) with
    | nil => simp [hdrop] at hx
    | cons y rest =>
      have hy : frameClass p y = .data :=
        class_eq_data_at_insPos hg (by rw [← List.head?_drop, hdrop, List.head?_cons])
      have horder : CommandsAhead p (y :: rest) := hdrop ▸ hmq.drop
      rcases List.mem_cons.1 (hdrop ▸ hx) with rfl | hrest
      · simp [hy]
      · exact (List.pairwise_cons.1 horder).1 x hrest hy
  · simp [insPos_of_ne_command hg] at hx

/-- A frame inserted at `k` comes last among the frames that meet `P` when none behind it does. -/
theorem filter_insert_of_none_behind {P : Frame → Bool} {g : Frame} {mq : List Frame} {k : Nat}
    (h : P g = true → ∀ x ∈ mq.drop k, P x = false) :
    (mq.take k ++ g :: mq.drop k).filter P = mq.filter P ++ if P g = true then [g] else [] := by
  have hsplit : mq.filter P = (mq.take k).filter P ++ (mq.drop k).filter P := by
    rw [← List.filter_append, List.take_append_drop]
  rw [hsplit, List.filter_append, List.filter_cons]
  split
  next hg =>
    have hnone : (mq.drop k).filter P = [] := List.filter_eq_nil_iff.2 fun x hx => by simp [h hg x hx]
    simp [hnone]
  next => simp

/-- Inserting a frame takes none out and keeps the order. -/
theorem sublist_insert (g : Frame) (mq : List Frame) (k : Nat) : mq.Sublist (mq.take k ++ g :: mq.drop k) := by
  have hsub := (List.sublist_cons_self g (mq.drop k)).append_left (mq.take k)
  rwa [List.take_append_drop] at hsub

/-! ENQ (R142). -/

@[simp] theorem failed_status (code v : Nat) (s : State) : (failed code v s).status = BitVec.ofNat 8 code := rfl

theorem execEnq_of_absent {s : State} (h : s.f.pv = false) : exec .enq s = .next (failed 2 0 s) := by
  simp [exec, execEnq, h, fail_eq_failed, StatusCode.code]

theorem execEnq_of_full {s : State} (hpv : s.f.pv = true) (h : 255 ≤ s.mq.length) :
    exec .enq s = .next (failed 5 0 s) := by
  simp [exec, execEnq, hpv, h, fail_eq_failed, StatusCode.code]

theorem execEnq_of_room {s : State} (hpv : s.f.pv = true) (h : s.mq.length < 255) :
    exec .enq s = .next (done (insPos s.params (frameOfF s) s.mq)
      { s with mq := s.mq.take (insPos s.params (frameOfF s) s.mq) ++
                 frameOfF s :: s.mq.drop (insPos s.params (frameOfF s) s.mq) }) := by
  simp [exec, execEnq, hpv, h.not_ge, finish_eq_done]

/-- Settles O32: ENQ's three endings. -/
theorem enqInsertsAtItsPosition : Obligations.EnqInsertsAtItsPosition := by
  refine ⟨rfl, fun s => ⟨fun hpv hroom => ?_, execEnq_of_absent, fun hpv hfull => execEnq_of_full hpv hfull.ge⟩⟩
  rw [List.append_assoc, List.singleton_append]
  exact execEnq_of_room hpv hroom

/-- All ENQ can do to the queue: it fails and keeps it, or inserts the frame of F at its position. -/
theorem enq_mq {s t : State} (h : exec .enq s = .next t) :
    (t.status ≠ 0 ∧ t.mq = s.mq) ∨
    t.mq = s.mq.take (insPos s.params (frameOfF s) s.mq) ++
      frameOfF s :: s.mq.drop (insPos s.params (frameOfF s) s.mq) := by
  cases hpv : s.f.pv with
  | false =>
    cases (execEnq_of_absent hpv).symm.trans h
    exact .inl ⟨by simp, rfl⟩
  | true =>
    rcases Nat.lt_or_ge s.mq.length 255 with hroom | hfull
    · cases (execEnq_of_room hpv hroom).symm.trans h
      exact .inr rfl
    · cases (execEnq_of_full hpv hfull).symm.trans h
      exact .inl ⟨by simp, rfl⟩

/-! DRAIN (R144). -/

theorem execDrain_of_empty {s : State} (h : s.mq = []) : exec .drain s = .next (failed 4 0 { s with tx := [] }) := by
  simp [exec, execDrain, h, fail_eq_failed, StatusCode.code]

theorem execDrain_of_absent {s : State} {g : Frame} {rest : List Frame} (h : s.mq = g :: rest) (hpv : g.pv = false) :
    exec .drain s = .next (failed 2 0 { s with tx := [] }) := by
  simp [exec, execDrain, h, hpv, fail_eq_failed, StatusCode.code]

theorem execDrain_of_oversize {s : State} {g : Frame} {rest : List Frame} (h : s.mq = g :: rest) (hpv : g.pv = true)
    (hlen : 255 < serLen g) : exec .drain s = .next (failed 3 0 { s with tx := [] }) := by
  simp [exec, execDrain, h, hpv, hlen, fail_eq_failed, StatusCode.code]

theorem execDrain_of_fits {s : State} {g : Frame} {rest : List Frame} (h : s.mq = g :: rest) (hpv : g.pv = true)
    (hlen : serLen g ≤ 255) :
    exec .drain s = .next (done (serLen g) { s with tx := serBytes g, mq := rest }) := by
  simp [exec, execDrain, h, hpv, hlen.not_gt, finish_eq_done]

/-- Settles O33: DRAIN's four endings. -/
theorem drainSendsTheHead : Obligations.DrainSendsTheHead :=
  ⟨rfl, fun _ => ⟨execDrain_of_empty, fun _ _ h =>
    ⟨execDrain_of_absent h, execDrain_of_oversize h, execDrain_of_fits h⟩⟩⟩

/-- All DRAIN can do to the queue: it fails and keeps it, or takes the head from it. -/
theorem drain_mq {s t : State} (h : exec .drain s = .next t) :
    (t.status ≠ 0 ∧ t.mq = s.mq) ∨ ∃ g, s.mq = g :: t.mq := by
  cases hmq : s.mq with
  | nil =>
    cases (execDrain_of_empty hmq).symm.trans h
    exact .inl ⟨by simp, hmq⟩
  | cons g rest =>
    cases hpv : g.pv with
    | false =>
      cases (execDrain_of_absent hmq hpv).symm.trans h
      exact .inl ⟨by simp, hmq⟩
    | true =>
      rcases Nat.lt_or_ge 255 (serLen g) with hlen | hlen
      · cases (execDrain_of_oversize hmq hpv hlen).symm.trans h
        exact .inl ⟨by simp, hmq⟩
      · cases (execDrain_of_fits hmq hpv hlen).symm.trans h
        exact .inr ⟨g, rfl⟩

/-! The queue under every command (R143, R145). -/

/-- No command but SRST, ENQ and DRAIN writes the queue. -/
theorem exec_mq_eq {i : Instr} {s t : State} (h : exec i s = .next t) (hsrst : i ≠ .srst) (henq : i ≠ .enq)
    (hdrain : i ≠ .drain) : t.mq = s.mq := by
  obtain ⟨-, -, -, -, -, -, -, -, -, hmq, -⟩ := stateHasOnlyItsNamedWriters i s t h hsrst
  exact hmq henq hdrain

/-- When a frame does not fit a transmission (R145). -/
theorem oversize_iff (g : Frame) :
    255 < serLen g ↔ (g.frag = false ∧ 250 < g.pay.length) ∨ (g.frag = true ∧ 249 < g.pay.length) := by
  cases hfrag : g.frag <;> simp [serLen, hfrag] <;> omega

/-- A command other than SRST and DRAIN keeps every queued frame, in its order. -/
theorem exec_mq_sublist {i : Instr} {s t : State} (h : exec i s = .next t) (hsrst : i ≠ .srst)
    (hdrain : i ≠ .drain) : s.mq.Sublist t.mq := by
  by_cases henq : i = .enq
  · subst henq
    rcases enq_mq h with ⟨-, hkeep⟩ | hins
    · rw [hkeep]
    · exact hins ▸ sublist_insert ..
  · rw [exec_mq_eq h hsrst henq hdrain]

/-- Settles O34: a failing DRAIN leaves the queue, and so its oversize head to the next one. -/
theorem oversizeHeadBlocksTheQueue : Obligations.OversizeHeadBlocksTheQueue := by
  refine ⟨oversize_iff, fun s t g hhead hpv hlen h => ?_, fun i s t => exec_mq_sublist⟩
  obtain ⟨rest, hmq⟩ := List.head?_eq_some_iff.1 hhead
  cases (execDrain_of_oversize hmq hpv hlen).symm.trans h
  exact ⟨rfl, rfl, rfl, _, execDrain_of_oversize hmq hpv hlen, rfl, rfl⟩

/-- Every command keeps the commands ahead of the data (R143). -/
theorem exec_commandsAhead {i : Instr} {s t : State} (h : exec i s = .next t) (hmq : CommandsAhead s.params s.mq) :
    CommandsAhead s.params t.mq := by
  by_cases hsrst : i = .srst
  · subst hsrst
    cases h
    exact .nil
  by_cases henq : i = .enq
  · subst henq
    rcases enq_mq h with ⟨-, hkeep⟩ | hins
    · rwa [hkeep]
    · exact hins ▸ commandsAhead_insert (frameOfF s) hmq
  by_cases hdrain : i = .drain
  · subst hdrain
    rcases drain_mq h with ⟨-, hkeep⟩ | ⟨g, htake⟩
    · rwa [hkeep]
    · exact (List.pairwise_cons.1 (htake ▸ hmq)).2
  rwa [exec_mq_eq h hsrst henq hdrain]

/-- A successful ENQ adds its frame behind all queued frames of a kind `P`, when the frame can overtake none of them: if
it is a command and of that kind itself, every frame of the kind is a command (R143). -/
theorem enq_filter {P : Frame → Bool} {s t : State} (hmq : CommandsAhead s.params s.mq) (h : exec .enq s = .next t)
    (hok : t.status = 0)
    (hP : ∀ x, P (frameOfF s) = true → P x = true → frameClass s.params (frameOfF s) = .command →
      frameClass s.params x = .command) :
    t.mq.filter P = s.mq.filter P ++ if P (frameOfF s) = true then [frameOfF s] else [] := by
  obtain ⟨hfail, -⟩ | hins := enq_mq h
  · exact absurd hok hfail
  rw [hins]
  refine filter_insert_of_none_behind fun hg x hx => ?_
  obtain ⟨hcommand, hother⟩ := class_of_mem_drop_insPos hmq hx
  exact Bool.eq_false_iff.2 fun hx => hother (hP x hg hx hcommand)

/-- Settles O35: frames of one class, and frames that are no commands, are kinds within which ENQ keeps the order; DRAIN
takes the head; and every command keeps the order of the classes. -/
theorem queueKeepsTheOrderWithinAClass : Obligations.QueueKeepsTheOrderWithinAClass := by
  refine fun s t => ⟨fun hmq h hok => ⟨fun c => ?_, ?_⟩, fun h hok => ?_, fun i => exec_commandsAhead⟩
  · rw [enq_filter hmq h hok]
    · simp only [decide_eq_true_eq]
    · intro x hg hx hcommand
      rw [of_decide_eq_true hx, ← of_decide_eq_true hg, hcommand]
  · rw [enq_filter hmq h hok]
    · simp only [decide_eq_true_eq, ne_eq, ite_not]
    · exact fun x hg _ hcommand => absurd hcommand (of_decide_eq_true hg)
  · exact (drain_mq h).resolve_left fun ⟨hfail, _⟩ => hfail hok

end Sys2Proof.Machine
end

section
/-! SUPPORT. The command words of SEGM, REL, HOFF and LDF as the spec writes them out (R93, R101). -/

namespace Sys2Proof

open Machine

/-- An operand byte moved up within the word keeps all its bits. -/
theorem toNat_setWidth_shiftLeft (x : BitVec 8) {p : Nat} (hp : p ≤ 24) :
    (x.setWidth 32 <<< p).toNat = x.toNat <<< p := by
  have hfits : x.toNat * 2 ^ p < 2 ^ 32 := calc
    x.toNat * 2 ^ p < 2 ^ 8 * 2 ^ 24 :=
      Nat.mul_lt_mul_of_lt_of_le x.isLt (Nat.pow_le_pow_right (by decide) hp) (by decide)
    _ = 2 ^ 32 := by decide
  rw [BitVec.toNat_shiftLeft, BitVec.toNat_setWidth_of_le (by decide), Nat.shiftLeft_eq, Nat.mod_eq_of_lt hfits]

/-- A command's word as R101 writes it: `op << 24 | a << 16 | b`. -/
theorem encode_eq_or (i : Instr) :
    encode i = (i.opcode.setWidth 32 <<< 24) ||| (i.operandA.setWidth 32 <<< 16) ||| i.operandB.setWidth 32 := by
  apply BitVec.eq_of_toNat_eq
  rw [encode, BitVec.toNat_append, BitVec.toNat_append, Nat.shiftLeft_or_distrib, ← Nat.shiftLeft_add,
    BitVec.toNat_or, BitVec.toNat_or, toNat_setWidth_shiftLeft _ (by decide), toNat_setWidth_shiftLeft _ (by decide),
    BitVec.toNat_setWidth_of_le (by decide)]

/-- Leading zero bits do not matter to a wider word. -/
theorem setWidth_zero_append {n m p : Nat} (x : BitVec m) (h : n + m ≤ p) :
    (0#n ++ x).setWidth p = x.setWidth p := by
  apply BitVec.eq_of_toNat_eq
  rw [BitVec.toNat_setWidth_of_le h, BitVec.toNat_setWidth_of_le (by omega), toNat_append_eq_add, BitVec.toNat_ofNat,
    Nat.zero_mod, Nat.zero_mul, Nat.zero_add]

/-- SEGM's word (R160). -/
theorem encode_segm (port : BitVec 3) (cls sd : BitVec 1) (scid : BitVec 10) :
    encode (.segm port cls sd scid) = 0x30000000 ||| (sd.setWidth 32 <<< 20) ||| (cls.setWidth 32 <<< 19) |||
      (port.setWidth 32 <<< 16) ||| scid.setWidth 32 := by
  have hupper : ∀ (port : BitVec 3) (cls sd : BitVec 1),
      ((0x30#8).setWidth 32 <<< 24) ||| ((0#3 ++ sd ++ cls ++ port : BitVec 8).setWidth 32 <<< 16) =
        0x30000000 ||| (sd.setWidth 32 <<< 20) ||| (cls.setWidth 32 <<< 19) ||| (port.setWidth 32 <<< 16) := by
    decide
  rw [encode_eq_or, Instr.opcode, Instr.operandA, Instr.operandB, setWidth_zero_append _ (by decide)]
  exact congrArg (· ||| scid.setWidth 32) (hupper port cls sd)

/-- REL's word (R165). -/
theorem encode_rel (id : BitVec 8) : encode (.rel id) = 0x31000000 ||| (id.setWidth 32 <<< 16) := by
  rw [encode_eq_or, Instr.opcode, Instr.operandA, Instr.operandB]
  exact BitVec.or_zero

/-- HOFF's word (R167). -/
theorem encode_hoff (id : BitVec 8) : encode (.hoff id) = 0x32000000 ||| (id.setWidth 32 <<< 16) := by
  rw [encode_eq_or, Instr.opcode, Instr.operandA, Instr.operandB]
  exact BitVec.or_zero

/-- LDF's word (R171). -/
theorem encode_ldf (src : BitVec 2) (idx : BitVec 8) :
    encode (.ldf src idx) = 0x34000000 ||| (src.setWidth 32 <<< 16) ||| idx.setWidth 32 := by
  rw [encode_eq_or, Instr.opcode, Instr.operandA, Instr.operandB, setWidth_zero_append _ (by decide),
    setWidth_zero_append _ (by decide)]
  exact congrArg (· ||| _ ||| _) (by decide)

/-- No command has the word of LDF with `src = 3` (R96). -/
theorem decode_ldf_source_three (idx : BitVec 8) (i : Instr) : decode (0x34030000 ||| idx.setWidth 32) ≠ .ok i := by
  have hword : encode (.ldf 3 idx) = 0x34030000 ||| idx.setWidth 32 := encode_ldf 3 idx
  obtain ⟨hop, hops⟩ := encode_eq_iff.1 hword
  intro h
  rw [decode_of_opcode hop] at h
  obtain ⟨src, idx', -, hsrc, hops'⟩ := decodeLdf_eq_ok_iff.1 h
  obtain ⟨-, hthree, -⟩ := ldf_hasOperands_iff.1 hops
  obtain ⟨-, hfield, -⟩ := ldf_hasOperands_iff.1 hops'
  exact hsrc (hfield.symm.trans hthree)

end Sys2Proof
end

section
/-! SUPPORT. SEGM (spec/42_segmentation_buffer.md sections 1, 2 and 7): the free id, the fragment count and sizes, the
frames built, and SEGM's three endings. -/

open Sys2Proof.Claim

namespace Sys2Proof.Machine

/-! The free id (R156). -/

theorem freeId_eq_of_saturated {s : State} (h : ∀ i < 255, s.allocated i = true) : s.freeId = 255 := by
  have hnone : leastId (fun i => !s.allocated i) = none := leastId_eq_none.2 fun i hi => by simp [h i hi]
  rw [State.freeId, hnone, Option.getD_none]

theorem freeId_eq_of_least {s : State} {i : Nat} (hi : i < 255) (hfree : s.allocated i = false)
    (hleast : ∀ j < i, s.allocated j = true) : s.freeId = i := by
  have hsome : leastId (fun i => !s.allocated i) = some i :=
    leastId_eq_some.2 ⟨by simp [hfree], hi, fun j hj => by simp [hleast j hj]⟩
  rw [State.freeId, hsome, Option.getD_some]

/-- Settles O36: the two answers of the scan. -/
theorem freeIdIsTheLeastFree : Obligations.FreeIdIsTheLeastFree :=
  fun _ => ⟨freeId_eq_of_saturated, fun _ => freeId_eq_of_least⟩

/-! Fragment count, sizes and flags (R157, R158, R161). -/

theorem fragmented_iff {L : Nat} : fragmented L = true ↔ 249 < L := by
  rw [fragmented, decide_eq_true_eq]

theorem fragCount_eq_fragments (L : Nat) : fragCount L = fragments L := by
  simp only [fragCount, fragmented_iff, fragments, maxFragPayload, Nat.reduceSub]

theorem fragments_of_le {L : Nat} (h : L ≤ 249) : fragments L = 1 := if_neg h.not_gt

/-- `fragments L` fragments of 249 bytes hold the SDU, and one fewer do not, unless one frame is all there is (R157). -/
theorem fragments_bounds (L : Nat) : L ≤ 249 * fragments L ∧ (249 < L → 249 * (fragments L - 1) < L) := by
  unfold fragments
  split <;> omega

theorem two_le_fragments {L : Nat} (h : 249 < L) : 2 ≤ fragments L := by
  obtain ⟨hhold, -⟩ := fragments_bounds L
  omega

/-- Fragment `k` takes the SDU's bytes from where the first `k` fragments end to where the first `k + 1` do (R158). -/
theorem fragLen_add (L k : Nat) : min (249 * k) L + fragLen L k = min (249 * (k + 1)) L := by
  simp only [fragLen, maxFragPayload]
  omega

/-- The first `m` fragments have 249 bytes each, as far as the SDU goes (R158). -/
theorem sum_fragLen (L m : Nat) : ((List.range m).map (fragLen L)).sum = min (249 * m) L := by
  induction m with
  | zero => simp
  | succ m ih =>
    rw [List.range_succ, List.map_append, List.sum_append, ih, List.map_singleton, List.sum_singleton, fragLen_add]

/-- Settles O37: the bounds on the count give the sizes, and the sizes add up to what the count of fragments can hold. -/
theorem fragmentCountAndSizes : Obligations.FragmentCountAndSizes := by
  intro L
  obtain ⟨hhold, hfewer⟩ := fragments_bounds L
  rw [fragCount_eq_fragments]
  refine ⟨fun h => ⟨fragments_of_le h, ?_, ?_⟩, fun h => ⟨fragmented_iff.2 h, two_le_fragments h, hfewer h, hhold,
    fun k hk => ?_, ?_⟩, ?_⟩
  · exact Bool.eq_false_iff.2 fun hfr => h.not_gt (fragmented_iff.1 hfr)
  · simp only [fragLen, maxFragPayload]
    omega
  · specialize hfewer h
    simp only [fragLen, maxFragPayload]
    omega
  · specialize hfewer h
    simp only [fragLen, maxFragPayload]
    split <;> omega
  · rw [sum_fragLen, Nat.min_eq_right hhold]

/-- Settles O38: the arms of R161, of which the first is not taken with two fragments or more. -/
theorem segFlagSequence : Obligations.SegFlagSequence := by
  refine ⟨fun p k n => ⟨rfl, fun hn => ⟨?_, ?_, fun hzero hlast => ?_⟩⟩, fun L hfr => ?_⟩
  · rw [segFlag, if_neg (by omega), if_pos rfl]
  · rw [segFlag, if_neg (by omega), if_neg (by omega), if_pos rfl]
  · rw [segFlag, if_neg (by omega), if_neg hzero, if_neg hlast]
  · have := two_le_fragments (fragmented_iff.1 hfr)
    rw [fragCount_eq_fragments]
    omega

/-! The frames SEGM builds (R160, R163). -/

/-- The frames SEGM appends to RB (R160). -/
def segmentFrames (port : BitVec 3) (cls sd : BitVec 1) (scid : BitVec 10) (s : State) : List Frame :=
  (List.range (fragments s.sduLen.toNat)).map (segmentFrame port cls sd scid s)

/-- The frame the model builds is R160's. -/
theorem builtFrame_eq_segmentFrame (port : BitVec 3) (cls sd : BitVec 1) (scid : BitVec 10) (s : State) (k : Nat) :
    builtFrame port cls sd scid s k = segmentFrame port cls sd scid s k := by
  simp only [builtFrame, segmentFrame, fragmented_iff, fragCount_eq_fragments]
  rfl

section
variable {port : BitVec 3} {cls sd : BitVec 1} {scid : BitVec 10} {s t : State}

@[simp] theorem segmentFrames_length : (segmentFrames port cls sd scid s).length = fragments s.sduLen.toNat := by
  rw [segmentFrames, List.length_map, List.length_range]

theorem segmentFrames_getElem? {k : Nat} (hk : k < fragments s.sduLen.toNat) :
    (segmentFrames port cls sd scid s)[k]? = some (segmentFrame port cls sd scid s k) := by
  rw [segmentFrames, List.getElem?_map, List.getElem?_range hk, Option.map_some]

/-! SEGM's endings (R160). -/

/-- PPID advances modulo 64 (R162). -/
theorem ppid_add_one (p : BitVec 6) : p + 1 = BitVec.ofNat 6 ((p.toNat + 1) % 64) := by
  apply BitVec.eq_of_toNat_eq
  simp

theorem execSegm_of_room (hfree : s.freeId ≠ 255) (hroom : s.rb.length + fragments s.sduLen.toNat ≤ 255) :
    exec (.segm port cls sd scid) s =
      .next (segmented s.freeId (segmentFrames port cls sd scid s) s) := by
  have hbuilt : builtFrame port cls sd scid s = segmentFrame port cls sd scid s :=
    funext (builtFrame_eq_segmentFrame port cls sd scid s)
  simp only [exec, execSegm, fragCount_eq_fragments, hbuilt, idSentinel, rbCap, hfree, hroom.not_gt, if_false,
    fragmented_iff, ppid_add_one, segmented, segmentFrames_length]
  rfl

theorem execSegm_of_saturated (hfree : s.freeId = 255) :
    exec (.segm port cls sd scid) s = .next (failed 6 255 s) := by
  simp only [exec, execSegm, idSentinel, hfree, if_true]
  rfl

theorem execSegm_of_full (hfree : s.freeId ≠ 255) (hfull : 255 < s.rb.length + fragments s.sduLen.toNat) :
    exec (.segm port cls sd scid) s = .next (failed 7 255 s) := by
  simp only [exec, execSegm, fragCount_eq_fragments, idSentinel, rbCap, hfree, hfull, if_true, if_false]
  rfl

/-- All SEGM can do: it succeeds, with a free id and room for its frames, or it fails with code 6 or 7. -/
theorem execSegm_cases (h : exec (.segm port cls sd scid) s = .next t) :
    (s.freeId ≠ 255 ∧ s.rb.length + fragments s.sduLen.toNat ≤ 255 ∧
      t = segmented s.freeId (segmentFrames port cls sd scid s) s) ∨
    ∃ code, (code = 6 ∨ code = 7) ∧ t = failed code 255 s := by
  by_cases hfree : s.freeId = 255
  · cases (execSegm_of_saturated hfree).symm.trans h
    exact .inr ⟨6, .inl rfl, rfl⟩
  · rcases Nat.lt_or_ge 255 (s.rb.length + fragments s.sduLen.toNat) with hfull | hroom
    · cases (execSegm_of_full hfree hfull).symm.trans h
      exact .inr ⟨7, .inr rfl, rfl⟩
    · cases (execSegm_of_room hfree hroom).symm.trans h
      exact .inl ⟨hfree, hroom, rfl⟩

/-- A SEGM that fails leaves a nonzero STATUS. -/
theorem failed_segm_status {code : Nat} (hcode : code = 6 ∨ code = 7) : (failed code 255 s).status ≠ 0 := by
  rcases hcode with rfl | rfl <;> simp

/-- A SEGM that succeeds had room, and RB is the old RB with the frames behind it (R164). -/
theorem execSegm_of_ok (h : exec (.segm port cls sd scid) s = .next t) (hok : t.status = 0) :
    s.rb.length + fragments s.sduLen.toNat ≤ 255 ∧ t.rb.drop s.rb.length = segmentFrames port cls sd scid s := by
  obtain ⟨-, hroom, rfl⟩ | ⟨code, hcode, rfl⟩ := execSegm_cases h
  · exact ⟨hroom, List.drop_left⟩
  · exact absurd hok (failed_segm_status hcode)

/-- Row `j` after SEGM gave a range to its free id (R160). -/
theorem entry_segmented {id : Nat} {new : List Frame} (hid : id < s.ids.length) (j : Nat) :
    (segmented id new s).entry j = if j = id then
      { alloc := true, handed := false, first := s.rb.length, last := s.rb.length + new.length - 1 } else s.entry j :=
  entry_of_stored (n := new.length) rfl hid j

/-- The id a successful SEGM answers (R160). -/
theorem segmented_result_toNat {id : Nat} {new : List Frame} (hid : id < 255) :
    (segmented id new s).result.toNat = id :=
  (BitVec.toNat_ofNat ..).trans (Nat.mod_eq_of_lt (by omega))

end

/-- Settles O39: SEGM's three endings. -/
theorem segmAppendsTheFragments : Obligations.SegmAppendsTheFragments :=
  fun port cls sd scid s => ⟨encode_segm port cls sd scid,
    fun hfree hroom => ⟨segmentFrames port cls sd scid s, execSegm_of_room hfree hroom, segmentFrames_length,
      fun _ => segmentFrames_getElem?⟩,
    execSegm_of_saturated, execSegm_of_full⟩

/-- Settles O40: the one ending that stores frames stores all of them, and the others leave STATUS, RESULT and DIAG. -/
theorem segmIsAllOrNothing : Obligations.SegmIsAllOrNothing := by
  intro port cls sd scid s t hsize h
  obtain ⟨hfree, -, rfl⟩ | ⟨code, hcode, rfl⟩ := execSegm_cases h
  · obtain ⟨hid, hwas⟩ := freeId_free hfree
    have hlen : (s.rb ++ segmentFrames port cls sd scid s).length = s.rb.length + fragments s.sduLen.toNat := by
      rw [List.length_append, segmentFrames_length]
    refine .inl ⟨rfl, List.take_left, hlen, ?_, ?_⟩
    · rwa [segmented_result_toNat hid]
    · rw [segmented_result_toNat hid, entry_segmented (hsize ▸ hid), if_pos rfl, ← List.length_append]
      rfl
  · exact .inr ⟨failed_segm_status hcode, rfl⟩

/-- The first `m` payloads in order are the SDU's first bytes (R158). -/
theorem flatten_segmentPayloads (port : BitVec 3) (cls sd : BitVec 1) (scid : BitVec 10) (s : State) (m : Nat) :
    ((List.range m).map fun k => (segmentFrame port cls sd scid s k).pay).flatten =
      (List.range (min (249 * m) s.sduLen.toNat)).map s.sduByte := by
  induction m with
  | zero => simp
  | succ m ih =>
    have hlast : (segmentFrame port cls sd scid s m).pay = sduSlice s (249 * m) (fragLen s.sduLen.toNat m) := rfl
    rw [List.range_succ, List.map_append, List.flatten_append, ih, ← fragLen_add, List.range_add, List.map_append,
      List.map_singleton, List.flatten_singleton, hlast, sduSlice, List.map_map]
    rcases Nat.le_total (249 * m) s.sduLen.toNat with hle | hge
    · rw [Nat.min_eq_left hle]
      rfl
    · have hempty : fragLen s.sduLen.toNat m = 0 := by
        simp only [fragLen, maxFragPayload]
        omega
      rw [hempty]
      rfl

/-- Settles O41: SEGM builds as many fragments as hold the whole SDU. -/
theorem fragmentPayloadsMakeTheSdu : Obligations.FragmentPayloadsMakeTheSdu := by
  intro port cls sd scid s t h hok
  obtain ⟨-, hnew⟩ := execSegm_of_ok h hok
  obtain ⟨hhold, -⟩ := fragments_bounds s.sduLen.toNat
  have hpayloads := flatten_segmentPayloads port cls sd scid s (fragments s.sduLen.toNat)
  rw [Nat.min_eq_right hhold] at hpayloads
  rw [hnew, segmentFrames, List.map_map]
  exact hpayloads

/-- Settles O42: each frame is one R160 builds, and its index is below 255 since all of them fit RB. -/
theorem builtFramesAreWellFormed : Obligations.BuiltFramesAreWellFormed := by
  intro port cls sd scid s t hp h hok k g hg
  obtain ⟨hroom, hnew⟩ := execSegm_of_ok h hok
  have hk : k < fragments s.sduLen.toNat := by
    simpa [hnew] using (List.getElem?_eq_some_iff.1 hg).1
  rw [hnew, segmentFrames_getElem? hk] at hg
  cases hg
  obtain ⟨hwf, hpay⟩ := builtFrame_eq_segmentFrame port cls sd scid s k ▸ builtFrame_wellFormed hp port cls sd scid k
  refine ⟨hwf, hpay, hwf.serLen_le, ?_, rfl, rfl, rfl, rfl, rfl, rfl, rfl, ?_⟩
  · exact (BitVec.toNat_ofNat ..).trans (Nat.mod_eq_of_lt (by omega))
  · simp only [segmentFrame, decide_eq_true_eq]

/-! PPID (R162). -/

/-- Every fragment of one SEGM carries PPID as it was (R162). -/
theorem ppid_of_mem_segmentFrames {port : BitVec 3} {cls sd : BitVec 1} {scid : BitVec 10} {s : State} {g : Frame}
    (hfr : 249 < s.sduLen.toNat) (hg : g ∈ segmentFrames port cls sd scid s) : g.seg.ppid = s.ppid := by
  obtain ⟨k, -, rfl⟩ := List.mem_map.1 hg
  simp only [segmentFrame, if_pos hfr]

/-- A command that changes PPID is SRST or a successful fragmenting SEGM (R36, R162). -/
theorem exec_ppid_cases {i : Instr} {s t : State} (h : exec i s = .next t) (hne : t.ppid ≠ s.ppid) :
    (t.ppid = 0 ∧ i = .srst) ∨
    ∃ port cls sd scid, i = .segm port cls sd scid ∧ t.status = 0 ∧ 249 < s.sduLen.toNat ∧
      t.ppid.toNat = (s.ppid.toNat + 1) % 64 ∧ ∀ g ∈ t.rb.drop s.rb.length, g.seg.ppid = s.ppid := by
  by_cases hsrst : i = .srst
  · subst hsrst
    cases h
    exact .inl ⟨rfl, rfl⟩
  obtain ⟨port, cls, sd, scid, rfl⟩ : ∃ port cls sd scid, i = .segm port cls sd scid := by
    by_contra hsegm
    obtain ⟨-, -, -, -, -, -, -, -, -, -, -, -, -, hppid⟩ := stateHasOnlyItsNamedWriters i s t h hsrst
    exact hne (hppid fun port cls sd scid hi => hsegm ⟨port, cls, sd, scid, hi⟩).1
  obtain ⟨-, -, rfl⟩ | ⟨code, -, rfl⟩ := execSegm_cases h
  · have hppid : (segmented s.freeId (segmentFrames port cls sd scid s) s).ppid =
      if 249 < s.sduLen.toNat then BitVec.ofNat 6 ((s.ppid.toNat + 1) % 64) else s.ppid := rfl
    have hfr : 249 < s.sduLen.toNat := by
      by_contra hshort
      exact hne (hppid.trans (if_neg hshort))
    refine .inr ⟨port, cls, sd, scid, rfl, rfl, hfr, ?_, fun g hg => ?_⟩
    · rw [hppid, if_pos hfr, BitVec.toNat_ofNat, Nat.mod_mod]
    · obtain ⟨-, hnew⟩ := execSegm_of_ok h rfl
      exact ppid_of_mem_segmentFrames hfr (hnew ▸ hg)
  · exact absurd rfl hne

/-- Settles O43: of the actions, only a reset and a command change PPID. -/
theorem ppidAdvancesOnlyByFragmentingSegm : Obligations.PpidAdvancesOnlyByFragmentingSegm := by
  intro a s t h hne
  rcases perform_cases a s with ⟨w, i, rfl, hw, hp⟩ | ⟨w, e, -, -, hp⟩ | ⟨r, v, -, -, hp⟩ | ⟨r, -, hp⟩ |
    ⟨space, i, v, -, hp⟩ | ⟨space, i, -, hp⟩ | ⟨rfl, hp⟩ <;> rw [hp] at h
  · obtain ⟨hzero, rfl⟩ | ⟨port, cls, sd, scid, rfl, hsegm⟩ := exec_ppid_cases h hne
    · exact .inl ⟨hzero, .inr ⟨w, rfl, hw⟩⟩
    · exact .inr ⟨w, port, cls, sd, scid, rfl, hw, hsegm⟩
  · cases h
    exact absurd rfl hne
  · cases h
    exact absurd (hostWriteReg_ppid r v s) hne
  · cases h
    exact absurd rfl hne
  · cases h
    exact absurd (hostWriteSpace_ppid space i v s) hne
  · cases h
    exact absurd rfl hne
  · cases h
    exact .inl ⟨rfl, .inl rfl⟩

/-- Settles O44: the least free id of such a state is `k`, and one frame has room. -/
theorem idsAreGivenOutInOrder : Obligations.IdsAreGivenOutInOrder := by
  intro port cls sd scid s k hsize halloc hrb hk hshort
  have hone := fragments_of_le hshort
  obtain hlt | rfl := Nat.lt_or_eq_of_le hk
  · have hfree : s.freeId = k := freeId_eq_of_least hlt (by simp [halloc k hlt]) fun j hj => by
      simp [halloc j (hj.trans hlt), hj]
    have hexec := execSegm_of_room (port := port) (cls := cls) (sd := sd) (scid := scid) (s := s) (by omega) (by omega)
    rw [hfree] at hexec
    refine ⟨_, hexec, fun _ => ⟨rfl, segmented_result_toNat hlt, ?_, ?_, fun i hi => ?_⟩, fun h => absurd h hlt.ne⟩
    · exact (List.length_set ..).trans hsize
    · exact (List.length_append ..).trans (by rw [segmentFrames_length, hone, hrb])
    · rw [State.allocated, entry_segmented (hsize ▸ hlt)]
      split
      · simp_all
      · rw [← State.allocated, halloc i hi]
        exact decide_eq_decide.2 (by omega)
  · have hfree : s.freeId = 255 := freeId_eq_of_saturated fun i hi => by simp [halloc i hi, hi]
    exact ⟨_, execSegm_of_saturated hfree, fun h => absurd h (by decide), fun _ => rfl⟩

end Sys2Proof.Machine
end

section
/-! SUPPORT. REL (spec/42_segmentation_buffer.md section 3): its two endings, and that removing one packet's run leaves
every other packet's frames. -/

open Sys2Proof.Claim

namespace Sys2Proof.Machine

/-- What an invalid packet-id operand is (R166). -/
theorem validId_eq_false_iff {id : Nat} {s : State} : validId id s = false ↔ 254 < id ∨ s.allocated id = false := by
  simp only [validId, idCount, Bool.and_eq_false_iff, decide_eq_false_iff_not, Nat.not_lt, Nat.succ_le_iff]

/-- The state REL leaves when it succeeds (R165). -/
def State.released (s : State) (id : Nat) : State :=
  done (s.runLength id)
    { s with rb := s.releasedRb id, ids := s.releasedRows id, pktCount := s.pktCount - 1 }

theorem execRel_of_valid {id : BitVec 8} {s : State} (h : validId id.toNat s = true) :
    exec (.rel id) s = .next (s.released id.toNat) := by
  simp only [exec, execRel, h, Bool.true_eq_false, if_false]
  rfl

theorem execRel_of_invalid {id : BitVec 8} {s : State} (h : validId id.toNat s = false) :
    exec (.rel id) s = .next (failed 8 0 s) := by
  simp [exec, execRel, h, fail_eq_failed, StatusCode.code]

/-- A REL that succeeds had a valid id. -/
theorem execRel_of_ok {id : BitVec 8} {s t : State} (h : exec (.rel id) s = .next t) (hok : t.status = 0) :
    validId id.toNat s = true ∧ t = s.released id.toNat := by
  cases hvalid : validId id.toNat s with
  | true =>
    cases (execRel_of_valid hvalid).symm.trans h
    exact ⟨rfl, rfl⟩
  | false =>
    cases (execRel_of_invalid hvalid).symm.trans h
    exact absurd hok (by simp)

/-- Row `j` after REL of `id` (R165). -/
theorem entry_released {s : State} {id : Nat} (halloc : s.allocated id = true) (j : Nat) :
    (s.released id).entry j =
      if j = id then .free else rebase (s.entry id).last (s.runLength id) (s.entry j) :=
  entry_of_released rfl (lt_length_of_allocated halloc) j

/-- A packet's frames lie within RB, so there are as many as its range spans (R42). -/
theorem IdIndexInv.packet_length {s : State} (hs : IdIndexInv s) {id : Nat} (hid : id < idCount)
    (halloc : s.allocated id = true) : (s.packet id).length = s.runLength id := by
  have hrange := hs.inRange id hid halloc
  rw [State.packet, List.length_take, List.length_drop, State.runLength]
  omega

/-- Removing a run leaves the frames of a range that ends before it where they are. -/
theorem range_before_removed {α : Type} {l : List α} {a e f n : Nat} (hn : f + n ≤ a) (ha : a ≤ l.length) :
    ((l.take a ++ l.drop (e + 1)).drop f).take n = (l.drop f).take n := by
  rw [List.drop_append_of_le_length (by rw [List.length_take]; omega),
    List.take_append_of_le_length (by rw [List.length_drop, List.length_take]; omega),
    List.drop_take, List.take_take, Nat.min_eq_left (by omega)]

/-- Removing the run from `a` to `e` moves what starts at `f`, beyond it, to `f'`, lower by the length of the run. -/
theorem drop_beyond_removed {α : Type} {l : List α} {a e f f' : Nat} (hae : a ≤ e) (he : e < l.length)
    (hf : e < f) (hf' : f' + (e - a + 1) = f) : (l.take a ++ l.drop (e + 1)).drop f' = l.drop f := by
  rw [List.drop_append, List.drop_of_length_le (by rw [List.length_take]; omega), List.nil_append, List.drop_drop,
    List.length_take]
  congr 1
  omega

/-- REL of one packet leaves every other packet its frames: they stand before the removed run, or beyond it with their
range moved down by its length (R165, R42, R43). -/
theorem IdIndexInv.packet_released {s : State} (hs : IdIndexInv s) {id j : Nat} (hid : id < idCount) (hj : j < idCount)
    (hne : j ≠ id) (halloc : s.allocated id = true) (hjalloc : s.allocated j = true) :
    (s.released id).packet j = s.packet j := by
  have hrange := hs.inRange id hid halloc
  have hjrange := hs.inRange j hj hjalloc
  obtain ⟨hbefore, hrow⟩ | ⟨hbeyond, hfirst, hlast⟩ :=
    hs.range_of_released (t := s.released id) hid hj hne halloc hjalloc rfl
  · rw [State.packet, hrow]
    exact range_before_removed (by omega) (by omega)
  · have hspan : ((s.released id).entry j).last - ((s.released id).entry j).first + 1 =
        (s.entry j).last - (s.entry j).first + 1 := by omega
    rw [State.packet, hspan]
    exact congrArg (List.take _) (drop_beyond_removed hrange.1 hrange.2 hbeyond hfirst)

/-- PKT_COUNT is not 0 while an id is allocated (R45). -/
theorem IdIndexInv.pktCount_pos {s : State} (hs : IdIndexInv s) {id : Nat} (halloc : s.allocated id = true) :
    0 < s.pktCount := by
  have hrow := lt_length_of_allocated halloc
  rw [hs.counted, List.countP_pos_iff]
  refine ⟨s.ids[id], List.getElem_mem hrow, ?_⟩
  rwa [State.allocated, State.entry, List.getD_eq_getElem _ _ hrow] at halloc

/-- Settles O46: the released run is the packet's frames, and every other packet keeps its own. -/
theorem relKeepsEveryOtherPacket : Obligations.RelKeepsEveryOtherPacket := by
  intro id s t hs h hok
  obtain ⟨hvalid, rfl⟩ := execRel_of_ok h hok
  obtain ⟨hid, halloc⟩ := validId_iff.1 hvalid
  have hrange := hs.inRange _ hid halloc
  have hlen := hs.packet_length hid halloc
  have hcap := hs.capacity
  have hrun : s.runLength id.toNat = (s.entry id.toNat).last - (s.entry id.toNat).first + 1 := rfl
  simp only [rbCap] at hcap
  refine ⟨?_, ?_, Nat.sub_add_cancel (hs.pktCount_pos halloc), ?_, fun j hj hne hjalloc => ⟨?_, ?_⟩⟩
  · have hrb : (s.released id.toNat).rb = s.releasedRb id.toNat := rfl
    rw [hrb, hlen, State.releasedRb, List.length_append, List.length_take, List.length_drop]
    omega
  · rw [hlen]
    exact (BitVec.toNat_ofNat ..).trans (Nat.mod_eq_of_lt (by omega))
  · rw [State.allocated, entry_released halloc, if_pos rfl, IdEntry.free_alloc]
  · rw [State.allocated, entry_released halloc, if_neg hne, rebase_alloc]
    exact hjalloc
  · exact hs.packet_released hid hj hne halloc hjalloc

/-- Settles O45: REL's two endings, the rows read off one by one. -/
theorem relRemovesTheRunAndRebases : Obligations.RelRemovesTheRunAndRebases := by
  refine fun id s => ⟨?_, fun hid halloc => ⟨s.releasedRows id.toNat, ?_, ?_, ?_⟩, fun h => ?_⟩
  · exact encode_rel id
  · exact execRel_of_valid (validId_iff.2 ⟨hid, halloc⟩)
  · rw [State.releasedRows, List.length_set, List.length_map]
  · exact entry_released halloc
  · exact execRel_of_invalid (validId_eq_false_iff.2 h)

/-- Settles O47: REL's failing branch; a released id is Free and so no longer valid. -/
theorem invalidIdChangesNothing : Obligations.InvalidIdChangesNothing := by
  refine fun id s => ⟨fun h => execRel_of_invalid (validId_eq_false_iff.2 (h.imp_left (by omega))), fun t h hok => ?_⟩
  obtain ⟨hvalid, rfl⟩ := execRel_of_ok h hok
  obtain ⟨-, halloc⟩ := validId_iff.1 hvalid
  refine execRel_of_invalid (validId_eq_false_iff.2 (.inr ?_))
  rw [State.allocated, entry_released halloc, if_pos rfl, IdEntry.free_alloc]

end Sys2Proof.Machine
end

section
/-! SUPPORT. HOFF, FPEND and LDF (spec/42_segmentation_buffer.md sections 4 to 6): each of their endings, and the oldest
packet. -/

open Sys2Proof.Claim

namespace Sys2Proof.Machine

/-! HOFF (R167). -/

theorem execHoff_of_valid {id : BitVec 8} {s : State} (h : validId id.toNat s = true) :
    exec (.hoff id) s =
      .next (done (s.runLength id.toNat) { s with ho := s.packet id.toNat, ids := s.handedRows id.toNat }) := by
  simp only [exec, execHoff, h, Bool.true_eq_false, if_false]
  rfl

theorem execHoff_of_invalid {id : BitVec 8} {s : State} (h : validId id.toNat s = false) :
    exec (.hoff id) s = .next (failed 8 0 { s with ho := [] }) := by
  simp [exec, execHoff, h, fail_eq_failed, StatusCode.code]

/-- Settles O48: HOFF's two endings, the rows read off one by one. -/
theorem hoffCopiesThePacket : Obligations.HoffCopiesThePacket := by
  refine fun id s => ⟨encode_hoff id, fun hid halloc => ⟨s.handedRows id.toNat, ?_, ?_, fun j => ?_⟩, fun h => ?_⟩
  · exact execHoff_of_valid (validId_iff.2 ⟨hid, halloc⟩)
  · rw [State.handedRows, List.length_set]
  · rw [State.handedRows, getD_set_row _ _ _ _ (lt_length_of_allocated halloc), ← State.entry]
    split
    next hj => rw [hj]
    next => rfl
  · exact execHoff_of_invalid (validId_eq_false_iff.2 h)

/-! FPEND and the oldest packet (R169, R44). -/

/-- The packet of id `i` starts RB. -/
def State.StartsRb (s : State) (i : Nat) : Prop := s.allocated i = true ∧ (s.entry i).first = 0

/-- What FPEND's scan tests (R169). -/
theorem State.startsRb_iff {s : State} {i : Nat} :
    s.StartsRb i ↔ (s.allocated i && decide ((s.entry i).first = 0)) = true := by
  rw [State.StartsRb, Bool.and_eq_true, decide_eq_true_eq]

theorem execFpend_of_least {s : State} {i : Nat} (hi : i < 255) (hstart : s.StartsRb i)
    (hleast : ∀ j < i, ¬s.StartsRb j) : exec .fpend s = .next (done i s) := by
  have hfound : leastId (fun i => s.allocated i && decide ((s.entry i).first = 0)) = some i :=
    leastId_eq_some.2 ⟨State.startsRb_iff.1 hstart, hi,
      fun j hj => Bool.eq_false_iff.2 fun h => hleast j hj (State.startsRb_iff.2 h)⟩
  simp only [exec, execFpend, hfound]
  rfl

theorem execFpend_of_none {s : State} (hnone : ∀ i < 255, ¬s.StartsRb i) :
    exec .fpend s = .next (failed 11 255 s) := by
  have hfound : leastId (fun i => s.allocated i && decide ((s.entry i).first = 0)) = none :=
    leastId_eq_none.2 fun i hi => Bool.eq_false_iff.2 fun h => hnone i hi (State.startsRb_iff.2 h)
  simp only [exec, execFpend, hfound]
  rfl

/-- A packet holds a frame, so none starts an empty RB (R42, R44). -/
theorem IdIndexInv.not_startsRb_of_empty {s : State} (hs : IdIndexInv s) (hrb : s.rb = []) {i : Nat} (hi : i < 255) :
    ¬s.StartsRb i := by
  rintro ⟨halloc, -⟩
  obtain ⟨-, hlast⟩ := hs.inRange i hi halloc
  simp [hrb] at hlast

/-- The first frame of RB belongs to a packet, which then starts RB (R44). -/
theorem IdIndexInv.exists_startsRb {s : State} (hs : IdIndexInv s) (hrb : s.rb ≠ []) : ∃ i < 255, s.StartsRb i := by
  obtain ⟨i, hi, halloc, hfirst, -⟩ := hs.covered 0 (List.length_pos_iff.2 hrb)
  exact ⟨i, hi, halloc, Nat.le_zero.1 hfirst⟩

/-- Two packets that start RB overlap, so they are one (R43). -/
theorem IdIndexInv.startsRb_unique {s : State} (hs : IdIndexInv s) {i j : Nat} (hi : i < 255) (hj : j < 255)
    (hstart : s.StartsRb i) (hstart' : s.StartsRb j) : j = i := by
  obtain ⟨halloc, hfirst⟩ := hstart
  obtain ⟨halloc', hfirst'⟩ := hstart'
  by_contra hne
  have hapart := hs.disjoint j hj i hi hne halloc' halloc
  omega

/-- Settles O49: FPEND's two endings, and that one packet starts RB exactly when RB holds a frame. -/
theorem fpendFindsTheOldestPacket : Obligations.FpendFindsTheOldestPacket := by
  refine ⟨rfl, fun s => ⟨fun i hi halloc hfirst => execFpend_of_least hi ⟨halloc, hfirst⟩, execFpend_of_none,
    fun hs => ⟨fun hrb i hi => hs.not_startsRb_of_empty hrb hi, fun hrb => ?_⟩⟩⟩
  obtain ⟨i, hi, hstart⟩ := hs.exists_startsRb hrb
  exact ⟨i, ⟨hi, hstart⟩, fun j hj halloc hfirst => hs.startsRb_unique hi hj hstart ⟨halloc, hfirst⟩⟩

/-! LDF (R171). -/

theorem execLdf_of_frame {src : BitVec 2} {idx : BitVec 8} {s : State} {frames : List Frame} {g : Frame}
    (hsrc : sourceFrames src s = some frames) (hg : frames[idx.toNat]? = some g) :
    exec (.ldf src idx) s = .next (done g.pay.length (loadF g s)) := by
  simp only [exec, execLdf, hsrc, hg]
  rfl

theorem execLdf_of_beyond {src : BitVec 2} {idx : BitVec 8} {s : State} {frames : List Frame}
    (hsrc : sourceFrames src s = some frames) (hidx : frames.length ≤ idx.toNat) :
    exec (.ldf src idx) s = .next (failed 12 0 s) := by
  simp only [exec, execLdf, hsrc, List.getElem?_eq_none hidx]
  rfl

/-- Settles O50: LDF's endings on the three sequences, and the word it has no command for. -/
theorem ldfCopiesAStoredFrame : Obligations.LdfCopiesAStoredFrame := by
  intro src idx s frames hframes
  have hsrc : sourceFrames src s = some frames := by
    rcases hframes with ⟨rfl, rfl⟩ | ⟨rfl, rfl⟩ | ⟨rfl, rfl⟩ <;> rfl
  exact ⟨encode_ldf src idx, fun g hg => ⟨(loadF g s).f, execLdf_of_frame hsrc hg, holdsFrame_loadF⟩,
    execLdf_of_beyond hsrc, decode_ldf_source_three idx⟩

end Sys2Proof.Machine
end

section
/-! SUPPORT. Reception (spec/43_reception.md): the four codes of SegFlag, each ending of ACCUM, and the bits of a byte
sequence one by one. -/

open Sys2Proof.Claim

namespace Sys2Proof.Machine

/-! NMORE (R186). -/

/-- Four distinct codes are all there are of a two-bit field. -/
theorem mem_of_nodup_four {a b c d : BitVec 2} (h : [a, b, c, d].Nodup) (x : BitVec 2) : x ∈ [a, b, c, d] := by
  revert a b c d x
  decide

/-- Of four distinct SegFlag codes, a field that holds neither of the first two holds one of the others (R6, R186). -/
theorem segFlag_first_or_middle_iff {p : Params} (hp : p.wf) (x : BitVec 2) :
    x = p.sfFirst ∨ x = p.sfMiddle ↔ x ≠ p.sfLast ∧ x ≠ p.sfNone := by
  obtain ⟨-, hcodes, -⟩ := hp
  constructor
  · rintro (rfl | rfl) <;> simp_all
  · rintro ⟨hlast, hnone⟩
    simpa [hlast, hnone] using mem_of_nodup_four hcodes x

/-- Settles O52: NMORE has the one branch, and SegFlag has no fifth code. -/
theorem nmoreReadsTagAndFlag : Obligations.NmoreReadsTagAndFlag :=
  ⟨rfl, fun s => ⟨rfl, fun hp => segFlag_first_or_middle_iff hp s.f.seg.flag⟩⟩

/-! ACCUM (R188). -/

@[simp] theorem frameOfF_frag (s : State) : (frameOfF s).frag = s.f.frag := rfl

theorem execAccum_of_absent {s : State} (h : s.f.pv = false) : exec .accum s = .next (failed 2 0 s) := by
  simp [exec, execAccum, h, fail_eq_failed, StatusCode.code]

theorem execAccum_of_unfragmented {s : State} (hpv : s.f.pv = true) (hfrag : s.f.frag = false) :
    exec .accum s = .next (done (frameOfF s).pay.length { s with acc := (frameOfF s).pay }) := by
  simp [exec, execAccum, hpv, hfrag, finish_eq_done]

theorem execAccum_of_fits {s : State} (hpv : s.f.pv = true) (hfrag : s.f.frag = true)
    (h : s.acc.length + (frameOfF s).pay.length ≤ s.params.accCap) :
    exec .accum s =
      .next (done (s.acc.length + (frameOfF s).pay.length) { s with acc := s.acc ++ (frameOfF s).pay }) := by
  simp [exec, execAccum, hpv, hfrag, h.not_gt, finish_eq_done]

theorem execAccum_of_overflow {s : State} (hpv : s.f.pv = true) (hfrag : s.f.frag = true)
    (h : s.params.accCap < s.acc.length + (frameOfF s).pay.length) : exec .accum s = .next (failed 10 0 s) := by
  simp [exec, execAccum, hpv, hfrag, h, fail_eq_failed, StatusCode.code]

/-- Settles O53: ACCUM's four endings. -/
theorem accumReplacesOrAppends : Obligations.AccumReplacesOrAppends :=
  ⟨rfl, fun _ => ⟨execAccum_of_absent, execAccum_of_unfragmented, execAccum_of_fits, execAccum_of_overflow⟩⟩

/-! The bits of a byte sequence, TOBITS and ACCCLR (R189, R190, R192). -/

theorem bitsOf_cons (x : Byte) (b : List Byte) : bitsOf (x :: b) = bitsOf [x] ++ bitsOf b := by
  simp [bitsOf]

/-- One byte's bits, the most significant first (R189). -/
theorem bitsOf_singleton_getElem? (x : Byte) {j : Nat} (hj : j < 8) : (bitsOf [x])[j]? = some (x.getLsbD (7 - j)) := by
  interval_cases j <;> rfl

/-- Byte `i`'s bits are the elements from `8 * i` on (R189). -/
theorem bitsOf_getElem? {b : List Byte} {i j : Nat} {x : Byte} (hx : b[i]? = some x) (hj : j < 8) :
    (bitsOf b)[8 * i + j]? = some (x.getLsbD (7 - j)) := by
  induction b generalizing i with
  | nil => simp at hx
  | cons y ys ih =>
    have hlen : (bitsOf [y]).length = 8 := bitsOf_length [y]
    rw [bitsOf_cons]
    cases i with
    | zero =>
      cases hx
      rw [Nat.mul_zero, Nat.zero_add, List.getElem?_append_left (by omega)]
      exact bitsOf_singleton_getElem? x hj
    | succ i =>
      have hindex : 8 * (i + 1) + j - 8 = 8 * i + j := by omega
      rw [List.getElem?_append_right (by omega), hlen, hindex]
      exact ih hx

/-- Settles O54: the two rules above. -/
theorem bitExpansionIsMsbFirst : Obligations.BitExpansionIsMsbFirst :=
  fun b => ⟨bitsOf_length b, fun _ _ _ => bitsOf_getElem?⟩

/-- What TOBITS puts in BITS (R190). -/
def State.keptBits (s : State) : List Bool := (bitsOf s.acc).take (min (8 * s.acc.length) bitsCap)

theorem State.keptBits_length (s : State) : s.keptBits.length = min (8 * s.acc.length) 8192 := by
  rw [State.keptBits, List.length_take, bitsOf_length, bitsCap, Nat.min_right_comm, Nat.min_self]

/-- All bits of the first 1024 bytes are kept (R190). -/
theorem State.keptBits_getElem? {s : State} {i j : Nat} {x : Byte} (hx : s.acc[i]? = some x) (hi : i < 1024)
    (hj : j < 8) : s.keptBits[8 * i + j]? = some (x.getLsbD (7 - j)) := by
  obtain ⟨hlen, -⟩ := List.getElem?_eq_some_iff.1 hx
  rw [State.keptBits, List.getElem?_take_of_lt (by rw [bitsCap]; omega)]
  exact bitsOf_getElem? hx hj

/-- Settles O55: both commands have the one branch, and the bits kept are a prefix of the expansion. -/
theorem tobitsAndAccclrEmptyAcc : Obligations.TobitsAndAccclrEmptyAcc :=
  ⟨rfl, rfl, fun s => ⟨rfl, s.keptBits, rfl, s.keptBits_length, fun _ _ _ => State.keptBits_getElem?⟩⟩

end Sys2Proof.Machine
end

section
/-! SUPPORT. The system commands and the host accesses (spec/44_system.md): what a step on each action answers, what a
register or a space reads after a write, and what neither changes. -/

open Sys2Proof.Claim

namespace Sys2Proof.Machine

/-! Steps, NOP, DCLR and the two resets (R8, R200 to R202, R241). -/

/-- A step performs the first pending action on the state without it (R9, R68). -/
theorem step_of_pending {a : HostAction} {s : State} {rest : List HostAction} (h : s.pending = a :: rest) :
    step s = perform a { s with pending := rest } := by
  rw [step, h]

/-- A word that decodes runs as the command it stands for (R205). -/
theorem runCommand_of_decoded {w : Word} {i : Instr} (s : State) (h : decode w = .ok i) :
    runCommand w s = exec i s := by
  rw [runCommand, h]

/-- Settles O5: a step on a CMD write runs the word, and the word decodes. -/
theorem stepRunsTheDecodedCommand : Obligations.StepRunsTheDecodedCommand :=
  fun _ _ _ _ hpending hdecode => (step_cmdWrite hpending).trans (runCommand_of_decoded _ hdecode)

/-- Settles O17: both commands have the one branch, which ends in R219's `done`. -/
theorem nopAndDclrTouchOnlyTheStatusRegisters : Obligations.NopAndDclrTouchOnlyTheStatusRegisters :=
  ⟨rfl, rfl, fun s =>
    ⟨congrArg Host.Outcome.next (finish_eq_done 0 s), congrArg Host.Outcome.next (finish_eq_done 0 _)⟩⟩

/-- SRST is the reset of R240 with the model's own fields kept: ending with 0 writes STATUS and RESULT their reset values
(R201, R240, log 8). -/
theorem finish_resetBlock (s : State) :
    finish 0 (resetBlock s) =
      { State.resetWith s.params with draws := s.draws + 1, readData := s.readData, pending := s.pending } := rfl

/-- Settles O18: SRST and the hardware reset are the same update. -/
theorem bothResetsGiveTheResetState : Obligations.BothResetsGiveTheResetState :=
  fun s => ⟨congrArg Host.Outcome.next (finish_resetBlock s), rfl⟩

/-! Register reads (R204, R41). -/

/-- A count or length register wide enough for its number reads as that number (R41). -/
theorem toNat_countRegister {n w : Nat} (hw : w ≤ 32) (hn : n < 2 ^ w) :
    ((BitVec.ofNat w n).setWidth 32).toNat = n := by
  rw [BitVec.toNat_setWidth_of_le hw, BitVec.toNat_ofNat, Nat.mod_eq_of_lt hn]

/-- PKT_COUNT is at most 255, the number of ids (R45). -/
theorem IdIndexInv.pktCount_le {s : State} (h : IdIndexInv s) : s.pktCount ≤ idCount := by
  rw [h.counted, ← h.size]
  exact List.countP_le_length

/-- Under the invariant every count and length register is wide enough for what it counts (R41, R47). -/
theorem State.Inv.countRegisters {s : State} (hs : s.Inv) :
    (hostReadReg .rbCount s).toNat = s.rb.length ∧ (hostReadReg .pktCount s).toNat = s.pktCount ∧
    (hostReadReg .mqLen s).toNat = s.mq.length ∧ (hostReadReg .txLen s).toNat = s.tx.length ∧
    (hostReadReg .oLen s).toNat = s.o.length ∧ (hostReadReg .accLen s).toNat = s.acc.length ∧
    (hostReadReg .bitsLen s).toNat = s.bits.length ∧ (hostReadReg .hoCount s).toNat = s.ho.length := by
  obtain ⟨hmq, htx, ho, hacc, hbits, -, hho⟩ := hs.buffers
  obtain ⟨-, -, -, haccCap⟩ := hs.params
  have hrb := hs.index.capacity
  have hpkt := hs.index.pktCount_le
  simp only [rbCap, idCount, mqCap, maxFrame, oCap, bitsCap] at hrb hpkt hmq htx ho hbits hho
  refine ⟨?_, ?_, ?_, ?_, ?_, ?_, ?_, ?_⟩ <;> exact toNat_countRegister (by decide) (by omega)

/-- Settles O56: a read moves only the value returned; a scalar register is read zero-extended, a count as a number. -/
theorem hostReadsReturnTheRegisters : Obligations.HostReadsReturnTheRegisters := by
  refine ⟨fun r s rest hpending => step_of_pending hpending,
    fun s => ⟨rfl, ?_, ?_, ?_, ?_, ?_, ?_, ?_, ?_, State.Inv.countRegisters⟩⟩ <;>
  exact BitVec.toNat_setWidth_of_le (by decide)

/-! Register writes (R205, R41). -/

/-- Writing a register of the low `n` bits stores the value under the mask of those bits. -/
theorem setWidth_setWidth_eq_and {n : Nat} {m : Word} (v : Word) (hn : n ≤ 32) (hm : m.toNat = 2 ^ n - 1) :
    (v.setWidth n).setWidth 32 = v &&& m := by
  apply BitVec.eq_of_toNat_eq
  rw [BitVec.toNat_setWidth_of_le hn, BitVec.toNat_setWidth, BitVec.toNat_and, hm, Nat.and_two_pow_sub_one_eq_mod]

/-- F_HDRA of the header a written F_HDRA stands for is the word written (R41, R73). -/
theorem hdraOf_headerOf (v : Word) (fsn : Byte) : hdraOf (headerOf v fsn) = v := by
  apply BitVec.eq_of_toNat_eq
  simp only [hdraOf_toNat, Header.byte0_toNat, Header.byte1_toNat, Header.byte2_toNat, Header.byte3_toNat, headerOf,
    BitVec.extractLsb'_toNat, Nat.shiftRight_eq_div_pow]
  omega

/-- F_CTL's mask keeps bits 1:0 and 23:8 (R41). -/
theorem toNat_and_ctlMask (v : Word) :
    (v &&& 0x00FFFF03).toNat = v.toNat % 2 ^ 2 + 2 ^ 8 * (v.toNat / 2 ^ 8 % 2 ^ 16) := by
  have hlow : (v.toNat &&& 0x00FFFF03) % 2 ^ 8 = v.toNat % 2 ^ 8 % 2 ^ 2 := by
    rw [Nat.and_mod_two_pow]
    exact Nat.and_two_pow_sub_one_eq_mod _ 2
  have hhigh : (v.toNat &&& 0x00FFFF03) / 2 ^ 8 = v.toNat / 2 ^ 8 % 2 ^ 16 := by
    rw [Nat.and_div_two_pow]
    exact Nat.and_two_pow_sub_one_eq_mod _ 16
  have hmask : (v &&& 0x00FFFF03).toNat = v.toNat &&& 0x00FFFF03 := BitVec.toNat_and ..
  omega

/-- A bit of a word as a digit of its value. -/
theorem toNat_getElem (v : Word) {k : Nat} (hk : k < 32) : v[k].toNat = v.toNat / 2 ^ k % 2 := by
  rw [BitVec.getElem_eq_testBit_toNat, Nat.toNat_testBit]

/-- F_CTL after a write is the word written without its reserved bits (R41, R205). -/
theorem hostReadReg_fCtl_written (v : Word) (s : State) :
    hostReadReg .fCtl (hostWriteReg .fCtl v s) = v &&& 0x00FFFF03 := by
  apply BitVec.eq_of_toNat_eq
  rw [toNat_and_ctlMask, hostReadReg, BitVec.toNat_setWidth_of_le (by decide), ctlOf_toNat]
  simp only [hostWriteReg, toNat_getElem, BitVec.extractLsb'_toNat, Nat.shiftRight_eq_div_pow]
  omega

/-- A register the host can write reads back as the value written, under the register's mask (R205). -/
theorem hostReadReg_hostWriteReg_same {r : Reg} {m : Word} (v : Word) (s : State) (h : writeMask r = some m) :
    hostReadReg r (hostWriteReg r v s) = v &&& m := by
  cases r with
  | cfg | rxLen | sduLen | fFsn =>
    cases h
    exact setWidth_setWidth_eq_and v (by decide) rfl
  | fHdra =>
    cases h
    exact (hdraOf_headerOf v _).trans BitVec.and_allOnes.symm
  | fCtl =>
    cases h
    exact hostReadReg_fCtl_written v s
  | cmd | status | result | diag | ppid | rbCount | pktCount | mqLen | txLen | oLen | accLen | bitsLen | hoCount =>
    cases h

/-- A register keeps its value when another is written: F_HDRA, F_FSN and F_CTL are apart in F (R41, R205). -/
theorem hostReadReg_hostWriteReg_of_ne {q r : Reg} (v : Word) (s : State) (h : q ≠ r) :
    hostReadReg q (hostWriteReg r v s) = hostReadReg q s := by
  cases q with
  | cmd => rfl
  | status | result | diag | ppid | rbCount | pktCount | mqLen | txLen | oLen | accLen | bitsLen | hoCount =>
    simp only [hostReadReg, hostWriteReg_status, hostWriteReg_result, hostWriteReg_diag, hostWriteReg_ppid,
      hostWriteReg_rb, hostWriteReg_pktCount, hostWriteReg_mq, hostWriteReg_tx, hostWriteReg_o, hostWriteReg_acc,
      hostWriteReg_bits, hostWriteReg_ho]
  | cfg | rxLen | sduLen | fHdra | fFsn | fCtl =>
    cases r <;> try rfl
    exact absurd rfl h

/-- A write to a register without a mask does nothing; CMD is none of `hostWriteReg`'s (R205). -/
theorem hostWriteReg_of_readOnly {r : Reg} (v : Word) (s : State) (h : writeMask r = none) :
    hostWriteReg r v s = s := by
  cases r with
  | cfg | rxLen | sduLen | fHdra | fFsn | fCtl => cases h
  | cmd | status | result | diag | ppid | rbCount | pktCount | mqLen | txLen | oLen | accLen | bitsLen | hoCount => rfl

/-- A step on a register write other than CMD is that write (R67). -/
theorem step_regWrite {r : Reg} {v : Word} {s : State} {rest : List HostAction} (hr : r ≠ .cmd)
    (h : s.pending = .writeReg r v :: rest) : step s = .next (hostWriteReg r v { s with pending := rest }) := by
  rw [step_of_pending h, perform, if_neg hr]

/-- Beside CFG, RX_LEN, SDU_LEN and F a register write changes nothing (R205). -/
theorem hostWriteReg_frame (r : Reg) (v : Word) (s : State) :
    { hostWriteReg r v s with cfg := s.cfg, rxLen := s.rxLen, sduLen := s.sduLen, f := s.f } = s := by
  cases r <;> rfl

/-- Settles O58: the read-back and the frame of a register write, over the step. -/
theorem hostRegisterWritesReadBack : Obligations.HostRegisterWritesReadBack := by
  refine ⟨fun r v s m hm => ⟨hostReadReg_hostWriteReg_same v s hm, fun q => hostReadReg_hostWriteReg_of_ne v s⟩,
    fun r v s => hostWriteReg_of_readOnly v s, fun r v s rest hr hpending => ?_⟩
  have hframe := congrArg (State.withPending · s.pending) (hostWriteReg_frame r v { s with pending := rest })
  exact ⟨_, step_regWrite hr hpending, rfl, hframe, hostWriteReg_fpay r v _⟩

/-! Space writes (R207, R64). -/

/-- A space after a write that may or may not reach it: the one byte, or what was there. -/
theorem Memory.getD_read_write_if (c : Prop) [Decidable c] (m : Memory) (i j : Nat) (b d : Byte) :
    (Memory.read (if c then Memory.write m i b else m) j).getD d =
      if c ∧ j = i then b else (Memory.read m j).getD d := by
  by_cases hc : c
  · by_cases hj : j = i <;> simp [hc, hj, Memory.read_write]
  · simp [hc]

/-- All a space write can do: it stores the low byte in the space named, when the host can write that space and the
index lies within it (R207, R64). -/
theorem hostWriteSpace_eq (space : Space) (i : Nat) (v : Word) (s : State) :
    hostWriteSpace space i v s = { s with
      f := { s.f with pay := if space = .fpay ∧ i < 255 then Memory.write s.f.pay i (v.setWidth 8) else s.f.pay }
      rx := if space = .rx ∧ i < 255 then Memory.write s.rx i (v.setWidth 8) else s.rx
      sdu := if space = .sdu ∧ i < 65535 then Memory.write s.sdu i (v.setWidth 8) else s.sdu } := by
  cases space with
  | fpay | rx | sdu =>
    unfold hostWriteSpace
    split
    all_goals
      rename_i hi
      simp only [spaceSize, plenMax, rxCap, sduCap] at hi
      simp [hi]
  | o | tx | acc | bits | range => exact ite_self s

/-- Settles O59: the step is the write, and each space is read after a write of one byte. -/
theorem hostSpaceWritesStoreOneByte : Obligations.HostSpaceWritesStoreOneByte := by
  intro space i v s rest hpending
  refine ⟨_, step_of_pending hpending, ?_⟩
  rw [hostWriteSpace_eq]
  refine ⟨rfl, fun j => ?_, fun j => ?_, fun j => ?_⟩ <;>
    simp only [State.fpayByte, State.rxByte, State.sduByte, Memory.getD_read_write_if, and_assoc]

/-! Space reads (R206, R65). -/

/-- A read within the space returns the space's element (R206). -/
theorem hostReadSpace_of_lt {space : Space} {i : Nat} {s : State} (h : i < spaceSize s.params space) :
    hostReadSpace space i s = spaceElement space i s := if_pos h

/-- A byte listed in its space is read zero-extended (R65). -/
theorem toNat_setWidth_getD {o : Option Byte} {b : Byte} (d : Byte) (h : o = some b) :
    ((o.getD d).setWidth 32).toNat = b.toNat := by
  rw [h, Option.getD_some, BitVec.toNat_setWidth_of_le (by decide)]

/-- Settles O60: the step returns the element, and a listed element is no free value. -/
theorem hostSpaceReadsReturnTheElement : Obligations.HostSpaceReadsReturnTheElement := by
  intro space i s rest hpending
  refine ⟨_, step_of_pending hpending, ?_, ?_, ?_, ?_, ?_, ?_, ?bits, ?range⟩
  case bits =>
    rintro b rfl hi hb
    rw [hostReadSpace_of_lt hi, spaceElement, hb]
    cases b <;> rfl
  case range =>
    rintro rfl hi
    exact hostReadSpace_of_lt hi
  all_goals
    rintro b rfl hi hb
    rw [hostReadSpace_of_lt hi]
    exact toNat_setWidth_getD _ hb

end Sys2Proof.Machine
end

section
/-! SUPPORT. How commands end (spec/60_exceptions.md): each ends with `done`, or with one of its codes in the failure of
R219, whose one effect beside STATUS, RESULT and DIAG is the empty result; and what the actions do to DIAG. -/

open Sys2Proof.Claim

namespace Sys2Proof.Machine

/-- The state with the output that a failure of the command empties (R219). -/
def State.outputEmptied (s : State) (i : Instr) : State :=
  { s with
    o := if emptiesO i = true then [] else s.o
    tx := if i = .drain then [] else s.tx
    ho := if emptiesHo i = true then [] else s.ho }

/-- RESULT after a failure of the command (R219). -/
def failureResult (i : Instr) : Nat := if failsWithSentinel i = true then 255 else 0

/-- The command may fail with the code: R217 lists it, or it is the code of an illegal command, for the term no word stands
for (R96, log 12). -/
def FailsWith (i : Instr) (c : StatusCode) : Prop :=
  c.code ∈ failureCodes i ∨ (i.wellFormed = false ∧ c = .illegalCmd)

/-- All the ways a command can end, by what it does to DIAG (R219, R220). -/
inductive Ending (i : Instr) (s : State) : State → Prop where
  /-- It succeeds and leaves DIAG. -/
  | done {v : Nat} {u : State} (hdiag : u.diag = s.diag) : Ending i s (finish v u)
  /-- It succeeds and clears DIAG. -/
  | cleared {v : Nat} {u : State} (hi : i = .dclr ∨ i = .srst) (hdiag : u.diag = 0) : Ending i s (finish v u)
  /-- It fails with one of its codes. -/
  | failed {c : StatusCode} (hc : FailsWith i c) : Ending i s (fail c (failureResult i) (s.outputEmptied i))

/-- A command that ends with a code of its row of R217 ends as R219 has it. -/
theorem Ending.listed {i : Instr} {s : State} (c : StatusCode)
    (hc : c.code ∈ failureCodes i := by simp [failureCodes, StatusCode.code]) :
    Ending i s (fail c (failureResult i) (s.outputEmptied i)) :=
  .failed (.inl hc)

/-- An LDF that no stored sequence answers is no legal command (R96, R171). -/
theorem ldf_not_wellFormed_of_no_source {src : BitVec 2} {s : State} (h : sourceFrames src s = none) (idx : BitVec 8) :
    (Instr.ldf src idx).wellFormed = false := by
  obtain ⟨-, hsrc⟩ | ⟨-, hsrc⟩ | ⟨-, hsrc⟩ | ⟨rfl, -⟩ := sourceFrames_cases src s
  case inr.inr.inr => rfl
  all_goals simp [hsrc] at h

/-- Every command ends so: the tests of its rule lead to one of its failures or to its success. -/
theorem exec_ending {i : Instr} {s t : State} (h : exec i s = .next t) : Ending i s t := by
  cases i with
  | nop | hpack | valid | nmore | tobits | accclr =>
    cases h
    exact .done rfl
  | dclr =>
    cases h
    exact .cleared (.inl rfl) rfl
  | srst =>
    cases h
    exact .cleared (.inr rfl) rfl
  | hunpk | deser =>
    simp only [exec, execHunpk, execDeser] at h
    split at h <;> cases h
    · exact .listed .shortInput
    · exact .done rfl
  | ser =>
    simp only [exec, execSer] at h
    split at h <;> cases h
    · exact .listed .absent
    · exact .done rfl
  | seri cap =>
    simp only [exec, execSeri] at h
    (repeat' split at h) <;> cases h
    · exact .listed .absent
    · exact .listed .bufTooSmall
    · exact .done rfl
  | enq =>
    simp only [exec, execEnq] at h
    (repeat' split at h) <;> cases h
    · exact .listed .absent
    · exact .listed .queueFull
    · exact .done rfl
  | drain =>
    simp only [exec, execDrain] at h
    (repeat' split at h) <;> cases h
    · exact .listed .queueEmpty
    · exact .listed .absent
    · exact .listed .bufTooSmall
    · exact .done rfl
  | segm port cls sd scid =>
    obtain ⟨-, -, rfl⟩ | ⟨code, rfl | rfl, rfl⟩ := execSegm_cases h
    · exact .done rfl
    · exact .listed .noFreeId
    · exact .listed .capacity
  | rel id | hoff id =>
    simp only [exec, execRel, execHoff] at h
    split at h <;> cases h
    · exact .listed .invalidId
    · exact .done rfl
  | fpend =>
    simp only [exec, execFpend] at h
    split at h <;> cases h
    · exact .listed .nonePending
    · exact .done rfl
  | ldf src idx =>
    simp only [exec, execLdf] at h
    split at h
    next hsrc =>
      cases h
      exact .failed (.inr ⟨ldf_not_wellFormed_of_no_source hsrc idx, rfl⟩)
    next =>
      split at h <;> cases h
      · exact .listed .badIndex
      · exact .done rfl
  | accum =>
    simp only [exec, execAccum] at h
    (repeat' split at h) <;> cases h
    · exact .listed .absent
    · exact .done rfl
    · exact .listed .accOverflow
    · exact .done rfl

/-- The code of a failure is one of R215's twelve, never ST_OK. -/
theorem FailsWith.code_bounds {i : Instr} {c : StatusCode} (h : FailsWith i c) : 1 ≤ c.code ∧ c.code ≤ 12 := by
  obtain hc | ⟨-, rfl⟩ := h
  · generalize c.code = code at hc ⊢
    cases i <;> simp only [failureCodes, List.mem_cons, List.not_mem_nil, or_false] at hc <;> omega
  · decide

/-- STATUS after a failure is not ST_OK (R215). -/
theorem FailsWith.status_ne_zero {i : Instr} {c : StatusCode} (h : FailsWith i c) : statusOf c ≠ 0 := by
  refine statusOf_ne_zero ?_
  rintro rfl
  exact absurd h.code_bounds (by decide)

/-- Settles O7: a performed action ignores the actions still to come, so with those of `s` it keeps them. -/
theorem everyActionCompletes : Obligations.EveryActionCompletes :=
  fun a s => ⟨_, perform_withPending a s s.pending, rfl⟩

/-- Settles O8: of a command's endings, only the failure leaves a nonzero STATUS, and it is R219's. -/
theorem failedCommandChangesNothingElse : Obligations.FailedCommandChangesNothingElse := by
  intro i s t h
  cases exec_ending h with
  | done hdiag => exact ⟨fun hstatus => absurd rfl hstatus, fun _ _ _ => hdiag⟩
  | cleared hi hdiag =>
    exact ⟨fun hstatus => absurd rfl hstatus, fun _ hdclr hsrst => (hi.elim hdclr hsrst).elim⟩
  | failed hc =>
    refine ⟨fun _ => ⟨rfl, ?_, ?_, rfl, rfl, rfl⟩, fun hstatus => absurd hstatus hc.status_ne_zero⟩
    · rw [fail_status, statusOf_toNat]
      rfl
    · rw [fail_result, failureResult]
      split <;> rfl

/-- Settles O9: a legal command that fails has one of its listed codes in STATUS. -/
theorem commandsEndWithTheirCodes : Obligations.CommandsEndWithTheirCodes := by
  intro i s t hi h
  cases exec_ending h with
  | done | cleared => exact List.mem_cons_self
  | failed hc =>
    obtain hlisted | ⟨hillegal, -⟩ := hc
    · rw [fail_status, statusOf_toNat]
      exact List.mem_cons_of_mem 0 hlisted
    · exact absurd hi (by simp [hillegal])

/-! DIAG under every action (R220). -/

/-- All an action can do to DIAG in a step from `s` to `t`. -/
inductive DiagStep (s t : State) : HostAction → Prop where
  /-- It leaves DIAG; if it is a command, that command succeeds. -/
  | kept {a : HostAction} (hstatus : ∀ w, a = .writeReg .cmd w → t.status = 0) (hdiag : t.diag = s.diag) :
      DiagStep s t a
  /-- DCLR and SRST, which succeed, and reset clear it. -/
  | cleared {a : HostAction} (ha : a = .hardwareReset ∨
        ∃ w, a = .writeReg .cmd w ∧ (decode w = .ok .dclr ∨ decode w = .ok .srst))
      (hstatus : t.status = 0) (hdiag : t.diag = 0) : DiagStep s t a
  /-- A command that fails sets the bit of its code. -/
  | failed {w : Word} (c : StatusCode) (hcode : 1 ≤ c.code ∧ c.code ≤ 12) (hstatus : t.status = statusOf c)
      (hdiag : t.diag = setDiag s.diag c) : DiagStep s t (.writeReg .cmd w)

/-- A command that a written word stands for does one of these to DIAG. -/
theorem Ending.diagStep {w : Word} {i : Instr} {s t : State} (hw : decode w = .ok i) (h : Ending i s t) :
    DiagStep s t (.writeReg .cmd w) := by
  cases h with
  | done hdiag => exact .kept (fun _ _ => rfl) hdiag
  | cleared hi hdiag =>
    refine .cleared (.inr ⟨w, rfl, ?_⟩) rfl hdiag
    rw [hw]
    exact hi.imp (congrArg Except.ok) (congrArg Except.ok)
  | failed hc => exact .failed _ hc.code_bounds rfl rfl

/-- Every action does one of these to DIAG: a host access other than a command leaves it (R67). -/
theorem perform_diagStep {a : HostAction} {s t : State} (h : perform a s = .next t) : DiagStep s t a := by
  rcases perform_cases a s with ⟨w, i, rfl, hw, hp⟩ | ⟨w, e, rfl, -, hp⟩ | ⟨r, v, hr, rfl, hp⟩ | ⟨r, rfl, hp⟩ |
    ⟨space, i, v, rfl, hp⟩ | ⟨space, i, rfl, hp⟩ | ⟨rfl, hp⟩ <;> rw [hp] at h
  · exact (exec_ending h).diagStep hw
  · cases h
    exact .failed .illegalCmd (by decide) rfl rfl
  · cases h
    exact .kept (by simp [hr]) (hostWriteReg_diag r v s)
  · cases h
    exact .kept (by simp) rfl
  · cases h
    exact .kept (by simp) (hostWriteSpace_diag space i v s)
  · cases h
    exact .kept (by simp) rfl
  · cases h
    exact .cleared (.inl rfl) rfl rfl

/-- Settles O10: DIAG bit by bit after each of the things an action can do to it. -/
theorem diagBitsAreSticky : Obligations.DiagBitsAreSticky := by
  intro a s t h
  cases perform_diagStep h with
  | kept hstatus hdiag =>
    rw [hdiag]
    exact ⟨fun w ha hfail => absurd (hstatus w ha) hfail, fun _ => .inl, fun _ => .inl, fun _ _ hclear => hclear⟩
  | cleared ha hstatus hdiag =>
    rw [hdiag]
    exact ⟨fun _ _ hfail => absurd hstatus hfail, by simp, fun _ _ => .inr ha, by simp⟩
  | failed c hcode hstatus hdiag =>
    have hbit (k : Nat) : t.diag.getLsbD k = true ↔ s.diag.getLsbD k = true ∨ c.code = k := by
      rw [hdiag, setDiag_getLsbD, Bool.or_eq_true, decide_eq_true_eq]
    have hnum : t.status.toNat = c.code := by rw [hstatus, statusOf_toNat]
    refine ⟨fun _ _ _ => (hbit _).2 (.inr hnum.symm), fun k hk => ((hbit k).1 hk).imp_right fun hk => ?_,
      fun k hk => .inl ((hbit k).2 (.inl hk)), fun k hk hclear => Bool.eq_false_iff.2 fun hset => ?_⟩
    · exact ⟨_, rfl, by omega, by omega⟩
    · obtain hold | hcode' := (hbit k).1 hset
      · simp [hclear] at hold
      · omega

end Sys2Proof.Machine
end

section
/-! SUPPORT. Reset (spec/70_reset_and_hazards.md): the values of R240, the invariant at reset, and that the open parameters
are never written (R244). -/

namespace Sys2Proof.Machine

/-! The reset state (R240). -/

/-- F's packed registers read 0 after reset: the empty frame has every field 0 (R24, R41). -/
theorem hostReadReg_f_resetWith (p : Params) :
    hostReadReg .fHdra (State.resetWith p) = 0 ∧ hostReadReg .fFsn (State.resetWith p) = 0 ∧
    hostReadReg .fCtl (State.resetWith p) = 0 := by
  refine ⟨?_, ?_, ?_⟩ <;> simp only [hostReadReg, resetWith_f] <;> decide

/-- R6's defaults, with the ACC_CAP the model chooses, are within R6's constraints. -/
theorem Params.default_wf : Params.default.wf := by decide

/-- Settles O14: the reset state meets the invariant under any parameters within R6's constraints, as the defaults are. -/
theorem resetMeetsTheInvariant : Obligations.ResetMeetsTheInvariant :=
  ⟨fun _ => inv_resetWith, inv_resetWith Params.default_wf⟩

/-- Settles O16: each field is read off the reset state; every row of the index is Free and every space holds no cell. -/
theorem resetStateIsAsTheSpecSays : Obligations.ResetStateIsAsTheSpecSays := by
  refine ⟨rfl, fun p => ?_⟩
  have hfree : IdEntry.free.alloc = false ∧ IdEntry.free.handed = false ∧ IdEntry.free.first = 0 ∧
      IdEntry.free.last = 0 := ⟨rfl, rfl, rfl, rfl⟩
  have hunwritten : FrameReg.empty.pay = [] := rfl
  simp [hostReadReg_f_resetWith, hfree, hunwritten]

/-! The open parameters (R244). -/

/-- No command's rules let it write the parameters; SRST, which writes everything else, is the case apart. -/
theorem writesOf_params {i : Instr} (hi : i ≠ .srst) (s t : State) : (writesOf i s t).params = s.params := by
  cases i with
  | srst => exact absurd rfl hi
  | _ => rfl

/-- A command keeps the parameters: SRST resets the block under those it found, and every other one writes what its rules
let it. -/
theorem exec_params {i : Instr} {s t : State} (h : exec i s = .next t) : t.params = s.params := by
  by_cases hi : i = .srst
  · subst hi
    cases h
    rfl
  · calc t.params = ((writesOf i s t).endedAs t).params := by rw [writesOf_endedAs h]
      _ = s.params := writesOf_params hi s t

/-- An action keeps the parameters: beside the commands it fails, moves a value of the host's or resets the block. -/
theorem perform_params {a : HostAction} {s t : State} (h : perform a s = .next t) : t.params = s.params := by
  rcases perform_cases a s with ⟨w, i, -, -, hp⟩ | ⟨w, e, -, -, hp⟩ | ⟨r, v, -, -, hp⟩ | ⟨r, -, hp⟩ |
    ⟨space, i, v, -, hp⟩ | ⟨space, i, -, hp⟩ | ⟨-, hp⟩ <;> rw [hp] at h
  · exact exec_params h
  · cases h
    exact fail_params ..
  · cases h
    exact hostWriteReg_params r v s
  · cases h
    exact returnRead_params ..
  · cases h
    exact hostWriteSpace_params space i v s
  · cases h
    exact returnRead_params ..
  · cases h
    exact resetBlock_params s

/-- Settles O12: a step performs one action, and no action writes the parameters. -/
theorem parametersNeverChange : Obligations.ParametersNeverChange := by
  intro s t h
  obtain ⟨a, rest, -, hperform⟩ := step_next h
  exact perform_params (s := { s with pending := rest }) hperform

end Sys2Proof.Machine
end
